-- ==== Sys2Proof/Word.lean ====
section
/-! DEFINITION. The word types of the block (00_scope.md R10, R12): every value is unsigned, bit 0 the least
significant, and the machine's two buses. -/

namespace Sys2Proof

/-- A data byte, the register byte, a count or an on-wire address: 8 bits (R10). -/
abbrev Byte := BitVec 8

/-- A host operation word or a peripheral command word: 32 bits (30_encoding.md section 2). -/
abbrev Word := BitVec 32

/-- The array of bytes a call borrows (20_memory.md R50): cells (index, byte), indices 0, 1, … in rising order.
An index that is not listed has no byte. -/
abbrev Memory := List Host.Cell

/-- The two buses of the block, ids 0 and 1: `NUM_BUSES = 2` (00_scope.md R9, decision D2). -/
inductive BusId where
  | bus0
  | bus1
deriving DecidableEq, Repr, Inhabited

end Sys2Proof
end

