-- ==== Sys2Proof/Config.lean ====
section
/-! DEFINITION. The parameters of 00_scope.md R9 and the free values (10_state.md R38). A parameter the spec leaves
OPEN is an opaque constant: nothing can be proved of its value, so what is proved holds whatever it is. -/

namespace Sys2Proof

/-- A level of a line (42_bus_recovery.md R140). -/
inductive Level where
  | lo
  | hi
deriving DecidableEq, Repr, Inhabited

/-- The two pins of a bus (42_bus_recovery.md R140). -/
inductive Line where
  | scl
  | sda
deriving DecidableEq, Repr, Inhabited

/-- The timing profile (10_state.md R34): Nominal = 0, HighSpeed = 1. -/
inductive Profile where
  | nominal
  | highSpeed
deriving DecidableEq, Repr, Inhabited

namespace Config

/-- `T_LONG` less one (R9, decision D4). -/
opaque tLongPred : Nat

/-- `T_LONG`, the one timeout constant: a natural number, at least 1 (R9, U25). -/
def tLong : Nat := tLongPred + 1

/-- `UNSTICK_STRETCH_POLLS`: the bound on polls of SCL before one pulse is forced (R9, decision D20). -/
opaque stretchPolls : Nat

/-- `UNSTICK_POLL_US`: the length of one short polling interval in microseconds (R9, decision D20). -/
opaque pollUs : Nat

/-- `UNSTICK_DELAY_US`: the fixed delay between line changes in microseconds (R9, decision D20). -/
opaque delayUs : Nat

/-- `UNSTICK_PULSES`, the clock pulses of BusRecovery (R9). -/
def unstickPulses : Nat := 9

/-- `LEN_MAX`, the largest byte count of one transaction (R9, decision D3). -/
def lenMax : Nat := 255

/-- `TIMING_NOMINAL` (R9, decision D25): a parameter no rule reads further than to name it. -/
opaque timingNominal : Nat

/-- `TIMING_HIGHSPEED` (R9, decision D25). -/
opaque timingHighSpeed : Nat

/-- `PIN_MAP`: bus id and line to a pin (R9, decision D36); events name the bus and the line only. -/
opaque pinMap : BusId → Line → Nat

/-- The timing-register value a profile selects at a reinitialization (10_state.md R34). -/
def timing : Profile → Nat
  | .nominal => timingNominal
  | .highSpeed => timingHighSpeed

/-- The status record of the free poll number `n` (R38, U8): any of the 64 values. -/
opaque freeStatus : Nat → BitVec 6

/-- The byte of the free receive number `n` (R38, U9): any value. -/
opaque freeByte : Nat → Byte

/-- The SCL level of the free read number `n` (R38, U10): Lo or Hi. -/
opaque freeLevel : Nat → Level

end Config

end Sys2Proof
end

