-- ==== Sys2Proof/Syntax.lean ====
section
/-! DEFINITION. The instructions: one constructor per row of spec/opcode_table.json (5 host operations, 14 step
keys, 4 peripheral commands), and the words they are written in (30_encoding.md). -/

namespace Sys2Proof

/-- The direction of a transaction, and bit 4 of a step key: Write = 0, Read = 1 (30_encoding.md R81). -/
inductive Dir where
  | write
  | read
deriving DecidableEq, Repr, Inhabited

/-- The 13 states of the protocol state machine (10_state.md R21, 30_encoding.md R71). -/
inductive PState where
  | idle | stopping | starting | startingWait | readAddr | writeAddr | addrWait
  | register | registerWait | restarting | transfer | nack | busError
deriving DecidableEq, Repr, Inhabited

/-- `endMode` of CONFIGURE: SoftEnd = 0, AutoEnd = 1 (30_encoding.md R83). -/
inductive EndMode where
  | softEnd
  | autoEnd
deriving DecidableEq, Repr, Inhabited

/-- `ssMode` of CONFIGURE: NoStartStop = 0, StartWrite = 1, StartRead = 2, Stop = 3 (30_encoding.md R83). -/
inductive SsMode where
  | noStartStop
  | startWrite
  | startRead
  | stop
deriving DecidableEq, Repr, Inhabited

/-- The peripheral commands that a trace event `EvCmd` records (10_state.md R40, 30_encoding.md R85, R86, R88).
RECV is recorded by `EvRecv` and is no member (R87). -/
inductive Command where
  | configure (addr nbytes : Byte) (endMode : EndMode) (ssMode : SsMode)
  | send (v : Byte)
  | clear (f : BitVec 3)
deriving DecidableEq, Repr

/-- One constructor per row of the opcode table. A host operation holds the fields of its word (R73), READ also the
array the caller gives beside the word. A step holds bit 4 of its key where the row leaves that bit open: the rule
itself reads `TS[b].dir`, which is where the key comes from (41_protocol_state_machine.md R100). A command holds the
fields of its word (R85 to R88). -/
inductive Instr where
  | initBus (bus : BitVec 4)
  | setOverclock (flag : Bool)
  | write (bus : BitVec 4) (addr7 : BitVec 7) (reg data : Byte)
  | read (bus : BitVec 4) (addr7 : BitVec 7) (reg len : Byte) (buf : Memory)
  | getErrorCount
  | stepIdle (d : Dir)
  | stepStopping (d : Dir)
  | stepStarting (d : Dir)
  | stepStartingWait (d : Dir)
  | stepReadAddr (d : Dir)
  | stepWriteAddr (d : Dir)
  | stepAddrWait (d : Dir)
  | stepRegister (d : Dir)
  | stepRegisterWait (d : Dir)
  | stepRestarting (d : Dir)
  | stepTransferRead
  | stepTransferWrite
  | stepNack (d : Dir)
  | stepBusError (d : Dir)
  | configure (addr nbytes : Byte) (endMode : EndMode) (ssMode : SsMode)
  | send (v : Byte)
  | recv
  | clear (f : BitVec 3)
deriving DecidableEq, Repr

/-- What a decoder is given: a host word with the array beside it (R73; an array only READ uses), a 5-bit step key
(R71), or a peripheral command word (R84). The three kinds share numbers, so the kind comes with the word. -/
inductive Encoded where
  | host (w : Word) (buf : Memory)
  | key (k : BitVec 5)
  | command (w : Word)
deriving DecidableEq, Repr

/-- Why a word spells no instruction. Every one is a refusal without effect (R72, R79, R89): safe. -/
inductive DecodeError where
  /-- Host word with `op` in 5..15 (R79). -/
  | reservedOp
  /-- Host word with an unused field that is not 0 (R79). -/
  | unusedFieldNotZero
  /-- WRITE or READ word with bit 23 set (R79). -/
  | addressBitSet
  /-- What stands beside a READ word is no array: its indices are not 0, 1, …, n-1 (R50). -/
  | notAnArray
  /-- Step key with state code 13 to 15 (R72). -/
  | reservedStateCode
  /-- Command word with `kind` 0 or 5..15 (R84, R89). -/
  | reservedKind
  /-- Command word with a bit set where R85 to R88 give 0 (R89). -/
  | commandBitNotZero
deriving DecidableEq, Repr

end Sys2Proof
end

