-- ==== Sys2Proof/WellFormed.lean ====
section
/-! DEFINITION. When an instruction is well formed. Every field has the width of its place in the word, so the one
check left is that the array beside a READ word is an array (20_memory.md R50). A bus number of 2 or more is well
formed and refused by value (30_encoding.md R79). -/

namespace Sys2Proof

/-- The cells are indices `a, a+1, …` in this order. -/
def Memory.wfFrom (a : Nat) : Memory → Bool
  | [] => true
  | c :: m => c.1 == a && Memory.wfFrom (a + 1) m

/-- The canonical form of a byte array `buf[0 .. n-1]`: indices 0, 1, …, n-1, strictly rising, each listed once. -/
def Memory.wf (m : Memory) : Bool := Memory.wfFrom 0 m

/-- The one well-formedness check: the array of a READ is canonical. -/
def Instr.wf : Instr → Bool
  | .read _ _ _ _ buf => buf.wf
  | .initBus _ | .setOverclock _ | .write _ _ _ _ | .getErrorCount
  | .stepIdle _ | .stepStopping _ | .stepStarting _ | .stepStartingWait _ | .stepReadAddr _ | .stepWriteAddr _
  | .stepAddrWait _ | .stepRegister _ | .stepRegisterWait _ | .stepRestarting _ | .stepTransferRead
  | .stepTransferWrite | .stepNack _ | .stepBusError _
  | .configure _ _ _ _ | .send _ | .recv | .clear _ => true

end Sys2Proof
end

