-- ==== Sys2Proof/Decode.lean ====
section
/-! DEFINITION. The decoder of each of the three kinds of word (30_encoding.md R71 to R92), total and rejecting by
name, and after it the encoder, written from the same tables. -/

namespace Sys2Proof

/-! ### State codes and step keys -/

/-- The 4-bit code of a state (R71). -/
def PState.code : PState → BitVec 4
  | .idle => 0 | .stopping => 1 | .starting => 2 | .startingWait => 3 | .readAddr => 4 | .writeAddr => 5
  | .addrWait => 6 | .register => 7 | .registerWait => 8 | .restarting => 9 | .transfer => 10 | .nack => 11
  | .busError => 12

/-- The state of a code; codes 13, 14 and 15 are reserved (R72). -/
def PState.ofCode (c : BitVec 4) : Option PState :=
  match c.toNat with
  | 0 => some .idle | 1 => some .stopping | 2 => some .starting | 3 => some .startingWait
  | 4 => some .readAddr | 5 => some .writeAddr | 6 => some .addrWait | 7 => some .register
  | 8 => some .registerWait | 9 => some .restarting | 10 => some .transfer | 11 => some .nack
  | 12 => some .busError | _ => none

/-- The direction bit (R81). -/
def Dir.bit : Dir → BitVec 1
  | .write => 0
  | .read => 1

/-- The direction of a direction bit (R81). -/
def Dir.ofBit (v : Bool) : Dir := if v then .read else .write

/-- The step key `dir ++ state` (R71). -/
def stepKey (d : Dir) (c : BitVec 4) : BitVec 5 := d.bit ++ c

/-- The step rule a state and a direction select (41_protocol_state_machine.md R100, decision D31). -/
def stepOf : PState → Dir → Instr
  | .idle, d => .stepIdle d
  | .stopping, d => .stepStopping d
  | .starting, d => .stepStarting d
  | .startingWait, d => .stepStartingWait d
  | .readAddr, d => .stepReadAddr d
  | .writeAddr, d => .stepWriteAddr d
  | .addrWait, d => .stepAddrWait d
  | .register, d => .stepRegister d
  | .registerWait, d => .stepRegisterWait d
  | .restarting, d => .stepRestarting d
  | .transfer, .read => .stepTransferRead
  | .transfer, .write => .stepTransferWrite
  | .nack, d => .stepNack d
  | .busError, d => .stepBusError d

/-- The decoder of step keys: total on the 26 keys with state code 0 to 12, refusing the 6 others (R91, R72). -/
def decodeKey (k : BitVec 5) : Except DecodeError Instr :=
  match PState.ofCode (k.extractLsb' 0 4) with
  | some p => .ok (stepOf p (Dir.ofBit (k.getLsbD 4)))
  | none => .error .reservedStateCode

/-! ### Host words -/

/-- `op`, bits 31:28 of a host word (R73); `kind` of a command word (R84). -/
def wordTop (w : Word) : BitVec 4 := w.extractLsb' 28 4

/-- `bus`, bits 27:24 (R73). -/
def hostBus (w : Word) : BitVec 4 := w.extractLsb' 24 4

/-- `addr7`, bits 22:16 (R73). -/
def hostAddr7 (w : Word) : BitVec 7 := w.extractLsb' 16 7

/-- `reg`, bits 15:8 (R73). -/
def hostReg (w : Word) : Byte := w.extractLsb' 8 8

/-- `data`, bits 7:0 (R73). -/
def hostData (w : Word) : Byte := w.extractLsb' 0 8

/-- The decoder of host words (R74 to R79): total, every unused field must be 0. `buf` is the array the caller gives
beside the word (R73); only READ uses it. -/
def decodeHost (w : Word) (buf : Memory) : Except DecodeError Instr :=
  match (wordTop w).toNat with
  | 0 => if w.extractLsb' 0 24 = 0 then .ok (.initBus (hostBus w)) else .error .unusedFieldNotZero
  | 1 => if w.extractLsb' 1 27 = 0 then .ok (.setOverclock (w.getLsbD 0)) else .error .unusedFieldNotZero
  | 2 =>
    if w.getLsbD 23 then .error .addressBitSet
    else .ok (.write (hostBus w) (hostAddr7 w) (hostReg w) (hostData w))
  | 3 =>
    if w.getLsbD 23 then .error .addressBitSet
    else if buf.wf then .ok (.read (hostBus w) (hostAddr7 w) (hostReg w) (hostData w) buf)
    else .error .notAnArray
  | 4 => if w.extractLsb' 0 28 = 0 then .ok .getErrorCount else .error .unusedFieldNotZero
  | _ => .error .reservedOp

/-! ### Peripheral command words -/

/-- The code of `endMode` (R83). -/
def EndMode.bit : EndMode → BitVec 1
  | .softEnd => 0
  | .autoEnd => 1

/-- The `endMode` of bit 24 (R83, R85). -/
def EndMode.ofBit (v : Bool) : EndMode := if v then .autoEnd else .softEnd

/-- The code of `ssMode` (R83). -/
def SsMode.code : SsMode → BitVec 2
  | .noStartStop => 0
  | .startWrite => 1
  | .startRead => 2
  | .stop => 3

/-- The `ssMode` of bits 27:26 (R83, R85). -/
def SsMode.ofCode (c : BitVec 2) : SsMode :=
  match c.toNat with
  | 0 => .noStartStop
  | 1 => .startWrite
  | 2 => .startRead
  | _ => .stop

/-- The decoder of command words (R84 to R89). -/
def decodeCommand (w : Word) : Except DecodeError Instr :=
  match (wordTop w).toNat with
  | 1 =>
    if w.getLsbD 25 = false ∧ w.extractLsb' 0 8 = 0 then
      .ok (.configure (w.extractLsb' 16 8) (w.extractLsb' 8 8) (EndMode.ofBit (w.getLsbD 24))
        (SsMode.ofCode (w.extractLsb' 26 2)))
    else .error .commandBitNotZero
  | 2 => if w.extractLsb' 8 20 = 0 then .ok (.send (w.extractLsb' 0 8)) else .error .commandBitNotZero
  | 3 => if w.extractLsb' 0 28 = 0 then .ok .recv else .error .commandBitNotZero
  | 4 => if w.extractLsb' 3 25 = 0 then .ok (.clear (w.extractLsb' 0 3)) else .error .commandBitNotZero
  | _ => .error .reservedKind

/-- The decoder: the kind of the word picks the table it is read by. -/
def decode : Encoded → Except DecodeError Instr
  | .host w buf => decodeHost w buf
  | .key k => decodeKey k
  | .command w => decodeCommand w

/-! ### Encoder -/

/-- A host word from its fields (R73): `op`, `bus`, `z = 0`, `addr7`, `reg`, `data`. -/
def hostWord (op bus : BitVec 4) (addr7 : BitVec 7) (reg data : Byte) : Word :=
  op ++ bus ++ 0#1 ++ addr7 ++ reg ++ data

/-- The word of CONFIGURE (R85). -/
def configureWord (addr nbytes : Byte) (e : EndMode) (m : SsMode) : Word :=
  1#4 ++ m.code ++ 0#1 ++ e.bit ++ addr ++ nbytes ++ 0#8

/-- The word of SEND (R86). -/
def sendWord (v : Byte) : Word := 2#4 ++ 0#20 ++ v

/-- The word of CLEAR (R88). -/
def clearWord (f : BitVec 3) : Word := 4#4 ++ 0#25 ++ f

/-- The word of a command that `EvCmd` records (R85, R86, R88). -/
def Command.word : Command → Word
  | .configure a n e m => configureWord a n e m
  | .send v => sendWord v
  | .clear f => clearWord f

/-- The words of an instruction. -/
def encode : Instr → Encoded
  | .initBus bus => .host (hostWord 0 bus 0 0 0) []
  | .setOverclock flag => .host (hostWord 1 0 0 0 (if flag then 1 else 0)) []
  | .write bus addr7 reg data => .host (hostWord 2 bus addr7 reg data) []
  | .read bus addr7 reg len buf => .host (hostWord 3 bus addr7 reg len) buf
  | .getErrorCount => .host (hostWord 4 0 0 0 0) []
  | .stepIdle d => .key (stepKey d 0)
  | .stepStopping d => .key (stepKey d 1)
  | .stepStarting d => .key (stepKey d 2)
  | .stepStartingWait d => .key (stepKey d 3)
  | .stepReadAddr d => .key (stepKey d 4)
  | .stepWriteAddr d => .key (stepKey d 5)
  | .stepAddrWait d => .key (stepKey d 6)
  | .stepRegister d => .key (stepKey d 7)
  | .stepRegisterWait d => .key (stepKey d 8)
  | .stepRestarting d => .key (stepKey d 9)
  | .stepTransferRead => .key (stepKey .read 10)
  | .stepTransferWrite => .key (stepKey .write 10)
  | .stepNack d => .key (stepKey d 11)
  | .stepBusError d => .key (stepKey d 12)
  | .configure a n e m => .command (configureWord a n e m)
  | .send v => .command (sendWord v)
  | .recv => .command 0x30000000
  | .clear f => .command (clearWord f)

/-! ### The opcode table's numbering -/

/-- `n` zero bytes at indices `a, a+1, …`. -/
def zeroCells (a : Nat) : Nat → Memory
  | 0 => []
  | n + 1 => (a, 0) :: zeroCells (a + 1) n

/-- The array taken to stand beside a 32-bit word of the opcode table, which gives it no bits: for READ `len` zero
bytes, for every other word nothing (log entry 18). -/
def besideWord (w : Word) : Memory := if wordTop w = 3 then zeroCells 0 (hostData w).toNat else []

/-- The word of a table row with its kind: rows of one byte are step keys; a 32-bit word is read as a host word, which
is what the block is given, and where it spells no host operation as a command word (log entry 11). -/
def tableEncoded (nbits w : Nat) : Option Encoded :=
  if nbits ≤ 8 then
    if w < 32 then some (.key (BitVec.ofNat 5 w)) else none
  else if w < 2 ^ 32 then
    let v : Word := BitVec.ofNat 32 w
    match decodeHost v (besideWord v) with
    | .ok _ => some (.host v (besideWord v))
    | .error _ => some (.command v)
  else none

/-- The instruction the decoder reads from a word of the opcode table. -/
def decodeTableWord (nbits w : Nat) : Option Instr :=
  match tableEncoded nbits w with
  | some e => (match decode e with | .ok i => some i | .error _ => none)
  | none => none

end Sys2Proof
end

