-- ==== Sys2Proof/Machine/State.lean ====
section
/-! DEFINITION. The state of the block (10_state.md), the reasons a step can stop, and the state at power-on (R42,
70_reset_and_hazards.md R220). All of it is plain data. -/

namespace Sys2Proof.Machine

/-- A table indexed by bus id, `0 .. NUM_BUSES-1` (10_state.md R20, R37). -/
structure PerBus (α : Type) where
  bus0 : α
  bus1 : α
deriving DecidableEq, Repr

/-- The entry of bus `b`. -/
def PerBus.get {α : Type} (p : PerBus α) : BusId → α
  | .bus0 => p.bus0
  | .bus1 => p.bus1

/-- The table with the entry of bus `b` replaced. -/
def PerBus.set {α : Type} (p : PerBus α) (b : BusId) (v : α) : PerBus α :=
  match b with
  | .bus0 => { p with bus0 := v }
  | .bus1 => { p with bus1 := v }

/-- `TS[b]`, the TransactionState of one bus (10_state.md R21 to R29). -/
structure TransactionState where
  /-- The protocol state as its 4-bit code (R21, 30_encoding.md R71). -/
  state : BitVec 4
  /-- The timeout countdown, a natural number in `0 .. T_LONG` (R22). -/
  timeout : Nat
  /-- The on-wire slave address (R23). -/
  addrW : Byte
  /-- The direction (R24). -/
  dir : Dir
  /-- The register byte (R25). -/
  reg : Byte
  /-- The remaining byte count (R26). -/
  remaining : Byte
  /-- The index of the next byte of the buffer (R27). -/
  cursor : Byte
  /-- The borrowed caller buffer, or none (R28). -/
  buf : Option Memory
  /-- The outcome flag (R29, R32). -/
  outcome : Bool
deriving DecidableEq, Repr

/-- `BUS[b]`, the attributes of one bus (10_state.md R33, R34). -/
structure BusAttr where
  /-- The initialized flag (R33). -/
  initialized : Bool
  /-- The timing profile latched at the last reinitialization (R34). -/
  profile : Profile
deriving DecidableEq, Repr

/-- The events of the trace `EV` (10_state.md R40). -/
inductive Event where
  /-- `EvPoll(b, st, S)`: status sample `S` taken in the state with code `st`. -/
  | poll (b : BusId) (st : BitVec 4) (S : BitVec 6)
  /-- `EvCmd(b, c)`: peripheral command issued. -/
  | cmd (b : BusId) (c : Command)
  /-- `EvRecv(b, v)`: receive-byte issued, byte `v` returned. -/
  | recv (b : BusId) (v : Byte)
  /-- `EvLine(b, L, lvl)`: pin driven. -/
  | line (b : BusId) (pin : Line) (lvl : Level)
  /-- `EvConfigOD(b, L)`: pin reconfigured as open-drain output. -/
  | configOD (b : BusId) (pin : Line)
  /-- `EvReadSCL(b, lvl)`: SCL read. -/
  | readSCL (b : BusId) (lvl : Level)
  /-- `EvDelay(us)`: a busy delay. -/
  | delay (us : Nat)
  /-- `EvErrInc(n)`: `ERRCNT` incremented to `n`. -/
  | errInc (n : BitVec 16)
  /-- `EvReinit(b, p)`: full peripheral reinitialization. -/
  | reinit (b : BusId) (p : Profile)
  /-- `EvReturn(b, r)`: a `write` or `read` call on bus `b` returned `r`. -/
  | ret (b : BusId) (r : Bool)
deriving DecidableEq, Repr

/-- What an operation hands back to its caller (43_transaction_api.md R163, R166, R169): of `write` and `read` the
outcome and the array as it then stands, of `getErrorCount` the counter. -/
inductive Returned where
  | call (b : BusId) (outcome : Bool) (buf : Option Memory)
  | errorCount (n : BitVec 16)
deriving DecidableEq, Repr

/-- What the outside asks of the block, one after the other. -/
inductive Request where
  /-- The caller issues a host operation (30_encoding.md R73): the word, and for READ the array beside it. -/
  | host (w : Word) (buf : Memory)
  /-- The state machine is invoked once on a bus with no call in flight (00_scope.md R11, 41_protocol_state_machine.md
  R104). -/
  | invoke (b : BusId)
  /-- A peripheral command word is presented by itself on a bus (30_encoding.md R84, 93_implementation_defined.md U18). -/
  | command (b : BusId) (w : Word)
deriving DecidableEq, Repr

/-- The environment's answers (10_state.md R38): those already lined up, by kind (an environment script, 30_encoding.md
R90), and the number of free draws taken once a list is empty. -/
structure Env where
  status : List (BitVec 6)
  recv : List Byte
  scl : List Level
  drawn : Nat
deriving DecidableEq, Repr

/-- The fault states an entry sets (60_exceptions.md R190, R197): a Timeout is always a BusError (R194). -/
inductive FaultEntry where
  | nack
  | busError
deriving DecidableEq, Repr

/-- The reasons a step is stuck. -/
inductive Fault where
  /-- Raised by a Transfer step whose cursor lies outside the borrowed array, or with no array (20_memory.md R53:
  "A buffer access outside `0 .. n-1` has no step"). Safe: no run from reset meets it. -/
  | bufferOutOfRange
deriving DecidableEq, Repr

/-- The reasons a step is refused, without any effect (00_scope.md R13, 60_exceptions.md R201). All are safe. -/
inductive Refusal where
  /-- Raised by exec's arm of an instruction that has no meaning yet. Safe. -/
  | notModelled (mnemonic : String)
  /-- Raised by the decoder: the word spells no instruction, or the state code is reserved (R72, R79, R89). Safe. -/
  | undecodable (e : DecodeError)
  /-- Raised by INIT_BUS, WRITE and READ: bus id `>= NUM_BUSES` (R160 item 2). Safe. -/
  | busOutOfRange
  /-- Raised by every host operation: a call is in flight on some bus (R160 item 3, R167). Safe. -/
  | callInFlight
  /-- Raised by WRITE, READ and every step: the bus is not initialized (R160 item 4, R100). Safe. -/
  | busNotInitialized
  /-- Raised by READ: the array is shorter than `len` (R160 item 5, R50). Safe. -/
  | bufferTooShort
  /-- Raised by CONFIGURE and CLEAR: a command the block never issues (R89, U18). Safe. -/
  | commandNeverIssued
deriving DecidableEq, Repr

/-- The state of the machine. -/
structure State where
  /-- `TS[0 .. 1]` (10_state.md R20). -/
  ts : PerBus TransactionState
  /-- `BUS[0 .. 1]` (R20). -/
  bus : PerBus BusAttr
  /-- `OVERCLOCK` (R35). -/
  overclock : Bool
  /-- `ERRCNT` (R36). -/
  errcnt : BitVec 16
  /-- The event trace `EV`, oldest first (R40). -/
  trace : List Event
  /-- The environment's answers (R38); the model's own field. -/
  env : Env
  /-- The bus the machine runs on; the model's own field. -/
  cur : BusId
  /-- The drive loop RunToIdle is running on `cur` (43_transaction_api.md R166); the model's own field. -/
  inCall : Bool
  /-- What the outside asks next, oldest first; the model's own field. -/
  inbox : List Request
  /-- What has been handed back, oldest first; the model's own field. -/
  returns : List Returned
deriving DecidableEq, Repr

/-- `TS[b]` at power-on. The spec leaves every field but `buf` unspecified and never read before `initBus(b)` (R42);
the values are the model's (log entry 5). -/
def TransactionState.powerOn : TransactionState :=
  { state := 0, timeout := 0, addrW := 0, dir := .write, reg := 0, remaining := 0, cursor := 0, buf := none,
    outcome := false }

/-- `BUS[b]` at power-on: not initialized (R33, R42); the profile is unspecified, its value the model's (log entry 5). -/
def BusAttr.powerOn : BusAttr := { initialized := false, profile := .nominal }

/-- The state at power-on (R42, R220): no bus initialized, `OVERCLOCK = 0`, `ERRCNT = 0`, the trace empty, nothing asked
for. -/
def State.reset : State :=
  { ts := { bus0 := .powerOn, bus1 := .powerOn }
    bus := { bus0 := .powerOn, bus1 := .powerOn }
    overclock := false
    errcnt := 0
    trace := []
    env := { status := [], recv := [], scl := [], drawn := 0 }
    cur := .bus0
    inCall := false
    inbox := []
    returns := [] }

end Sys2Proof.Machine
end

