-- ==== Sys2Proof/Machine/Flags.lean ====
section
/-! DEFINITION. The six bits of a status sample (30_encoding.md R82) and the block's own flag, the outcome. -/

namespace Sys2Proof.Machine

/-- Bit 0, bus-busy: read by StartingWait. -/
def statusBusy (S : BitVec 6) : Bool := S.getLsbD 0

/-- Bit 1, transmit-ready: read by AddrWait and Transfer (Write). -/
def statusTxReady (S : BitVec 6) : Bool := S.getLsbD 1

/-- Bit 2, receive-ready: read by Transfer (Read). -/
def statusRxReady (S : BitVec 6) : Bool := S.getLsbD 2

/-- Bit 3, transfer-complete: read by RegisterWait. -/
def statusTc (S : BitVec 6) : Bool := S.getLsbD 3

/-- Bit 4, NACK-received: read by AddrWait and RegisterWait. -/
def statusNack (S : BitVec 6) : Bool := S.getLsbD 4

/-- Bit 5, stop-detected: read by no state (10_state.md R32). -/
def statusStop (S : BitVec 6) : Bool := S.getLsbD 5

/-- The number CLEAR names NACK-received by (30_encoding.md R88). -/
def flagNack : BitVec 3 := 4

/-- The number CLEAR names stop-detected by (30_encoding.md R88). -/
def flagStop : BitVec 3 := 5

/-- The outcome flag set (10_state.md R29). -/
def outcomeSet (t : TransactionState) : TransactionState := { t with outcome := true }

/-- The outcome flag cleared (10_state.md R29). -/
def outcomeClear (t : TransactionState) : TransactionState := { t with outcome := false }

end Sys2Proof.Machine
end

