-- ==== Sys2Proof/Machine/Operands.lean ====
section
/-! DEFINITION. Operand forms: the on-wire address, bus numbers, the profile bit, and the bytes of the borrowed array. -/

namespace Sys2Proof.Machine

/-- The on-wire address: `addrW[7:1] = addr7`, `addrW[0] = 0` (30_encoding.md R80). -/
def onWire (addr7 : BitVec 7) : Byte := addr7 ++ 0#1

/-- The bus of a host word's `bus` field, if it is below `NUM_BUSES` (43_transaction_api.md R160 item 2). -/
def busOfNumber (n : BitVec 4) : Option BusId :=
  match n.toNat with
  | 0 => some .bus0
  | 1 => some .bus1
  | _ => none

/-- The profile an `OVERCLOCK` bit selects: Nominal = 0, HighSpeed = 1 (10_state.md R34, R35). -/
def profileOf (flag : Bool) : Profile := if flag then .highSpeed else .nominal

/-- `BufRead(i)` on the array: byte `i`, or nothing outside it (20_memory.md R52, R53). -/
def memRead : Memory → Nat → Option Byte
  | [], _ => none
  | c :: m, i => if c.1 = i then some c.2 else memRead m i

/-- The array with every cell of index `i` holding `v`. -/
def memPut (m : Memory) (i : Nat) (v : Byte) : Memory := m.map fun c => if c.1 = i then (i, v) else c

/-- `BufWrite(i, v)` on the array: byte `i` replaced, or nothing outside it (20_memory.md R51, R53). -/
def memWrite (m : Memory) (i : Nat) (v : Byte) : Option Memory :=
  match memRead m i with
  | some _ => some (memPut m i v)
  | none => none

/-- An array of the given bytes, at indices `a, a+1, …`. -/
def cellsFrom (a : Nat) : List Byte → Memory
  | [] => []
  | v :: vs => (a, v) :: cellsFrom (a + 1) vs

/-- The array `[v0, v1, …]` of a call (20_memory.md R50). -/
def memOf (vs : List Byte) : Memory := cellsFrom 0 vs

/-- `BufRead(i)` on the buffer of a call, which may be none (20_memory.md R52). -/
def bufRead (buf : Option Memory) (i : Nat) : Option Byte :=
  match buf with
  | some m => memRead m i
  | none => none

/-- `BufWrite(i, v)` on the buffer of a call, which may be none (20_memory.md R51). -/
def bufWrite (buf : Option Memory) (i : Nat) (v : Byte) : Option Memory :=
  match buf with
  | some m => memWrite m i v
  | none => none

end Sys2Proof.Machine
end

