-- ==== Sys2Proof/Machine/Ops.lean ====
section
/-! DEFINITION. The primitives of 00_scope.md R13 and R14 over the state: reading and writing a bus's
TransactionState, the trace, the environment's answers, fault entry, the countdown and reinitialization. -/

namespace Sys2Proof.Machine

/-! ### Fields -/

/-- `TS[b]` changed by `f`, everything else kept. -/
def updTs (b : BusId) (f : TransactionState → TransactionState) (s : State) : State :=
  { s with ts := s.ts.set b (f (s.ts.get b)) }

/-- `TS[b].state <- p` (R13). -/
def setState (b : BusId) (p : PState) (s : State) : State := updTs b (fun t => { t with state := p.code }) s

/-- `TS[b].timeout <- T_LONG` (41_protocol_state_machine.md R102). -/
def seedTimeout (b : BusId) (s : State) : State := updTs b (fun t => { t with timeout := Config.tLong }) s

/-- Append one event to the trace (10_state.md R40). -/
def emit (e : Event) (s : State) : State := { s with trace := s.trace ++ [e] }

/-! ### Draws (10_state.md R38): the next answer lined up, or else a free value -/

/-- The status sample the next poll returns. -/
def statusAnswer (s : State) : BitVec 6 :=
  match s.env.status with
  | S :: _ => S
  | [] => Config.freeStatus s.env.drawn

/-- The environment once that sample is taken. -/
def Env.afterStatus (e : Env) : Env :=
  match e.status with
  | _ :: rest => { e with status := rest }
  | [] => { e with drawn := e.drawn + 1 }

/-- The state after `Poll(b)`: one sample taken, `EvPoll(b, TS[b].state, S)` appended (R13). -/
def afterPoll (b : BusId) (s : State) : State :=
  emit (.poll b (s.ts.get b).state (statusAnswer s)) { s with env := s.env.afterStatus }

/-- The byte the next receive returns. -/
def recvAnswer (s : State) : Byte :=
  match s.env.recv with
  | v :: _ => v
  | [] => Config.freeByte s.env.drawn

/-- The environment once that byte is taken. -/
def Env.afterRecv (e : Env) : Env :=
  match e.recv with
  | _ :: rest => { e with recv := rest }
  | [] => { e with drawn := e.drawn + 1 }

/-- The state after `Recv(b)`: one byte taken, `EvRecv(b, v)` appended (R13, 30_encoding.md R87). -/
def afterRecv (b : BusId) (s : State) : State :=
  emit (.recv b (recvAnswer s)) { s with env := s.env.afterRecv }

/-- The level the next read of SCL returns. -/
def sclAnswer (s : State) : Level :=
  match s.env.scl with
  | l :: _ => l
  | [] => Config.freeLevel s.env.drawn

/-- The environment once that level is taken. -/
def Env.afterScl (e : Env) : Env :=
  match e.scl with
  | _ :: rest => { e with scl := rest }
  | [] => { e with drawn := e.drawn + 1 }

/-! ### Peripheral and pins -/

/-- `Cmd(b, c)` (R13): the command is issued and recorded. -/
def cmd (b : BusId) (c : Command) (s : State) : State := emit (.cmd b c) s

/-- `Line(b, L, lvl)` (42_bus_recovery.md R140). -/
def drive (b : BusId) (pin : Line) (lvl : Level) (s : State) : State := emit (.line b pin lvl) s

/-- `ConfigOD(b, L)` (R140). -/
def configOD (b : BusId) (pin : Line) (s : State) : State := emit (.configOD b pin) s

/-- The state after `ReadSCL(b)` (R140): one level taken and recorded. -/
def afterReadScl (b : BusId) (s : State) : State :=
  emit (.readSCL b (sclAnswer s)) { s with env := s.env.afterScl }

/-- `Delay(us)` (R140). -/
def delay (us : Nat) (s : State) : State := emit (.delay us) s

/-! ### Faults -/

/-- Entry to a fault state: `raise Nack` and `raise BusError` are the assignment of the state and nothing else
(R13, 60_exceptions.md R197); nothing is saved, there is no vector and no mode. -/
def raise (f : FaultEntry) (b : BusId) (s : State) : State :=
  match f with
  | .nack => setState b .nack s
  | .busError => setState b .busError s

/-- `tick(b)` (R14): count down, and at 0 enter BusError. It is only called with a countdown of at least 1; at 0, which
no run reaches, the subtraction stays at 0 (log entry 12). -/
def tick (b : BusId) (s : State) : State :=
  let s1 := updTs b (fun t => { t with timeout := t.timeout - 1 }) s
  if (s1.ts.get b).timeout = 0 then raise .busError b s1 else s1

/-- What `Reinit` leaves in `TS[b]` (43_transaction_api.md R170): every field cleared but `buf`. -/
def reinitTs (t : TransactionState) : TransactionState :=
  { t with
    state := PState.idle.code, outcome := false, timeout := 0, addrW := 0, dir := .write, reg := 0, remaining := 0,
    cursor := 0 }

/-- `Reinit(b)` (R170): the profile latched from `OVERCLOCK`, the event, the bus initialized, `TS[b]` reset. -/
def reinit (b : BusId) (s : State) : State :=
  let p := profileOf s.overclock
  let s1 := emit (.reinit b p) { s with bus := s.bus.set b { initialized := true, profile := p } }
  updTs b reinitTs s1

/-- The return from a fault (60_exceptions.md R198): a Nack goes on to Stopping, a BusError ends in Idle through
`Reinit`. -/
def leaveFault (f : FaultEntry) (b : BusId) (s : State) : State :=
  match f with
  | .nack => setState b .stopping s
  | .busError => reinit b s

/-! ### Guards -/

/-- A step rule on the bus the machine runs on; `Step(b)` requires `BUS[b].initialized = 1`
(41_protocol_state_machine.md R100). -/
def onStep (s : State) (f : BusId → Host.Outcome State Fault Refusal) : Host.Outcome State Fault Refusal :=
  if (s.bus.get s.cur).initialized then f s.cur else .refused .busNotInitialized

/-- No call is in flight on bus `b` (43_transaction_api.md R160 item 3). -/
def busFree (s : State) (b : BusId) : Bool :=
  (s.ts.get b).state == PState.idle.code || !(s.bus.get b).initialized

/-- No call is in flight: R160 item 3 for every bus. -/
def noCall (s : State) : Bool := busFree s .bus0 && busFree s .bus1

end Sys2Proof.Machine
end

