-- ==== Sys2Proof/Machine/Api.lean ====
section
/-! DEFINITION. The host operations (43_transaction_api.md): INIT_BUS, SET_OVERCLOCK, WRITE, READ,
GET_ERROR_COUNT, and the return of a call. -/

namespace Sys2Proof.Machine

/-- The transfer descriptor a call seeds, and state Starting (R161, R162). The countdown and the outcome are left to
the Starting step (10_state.md R30). -/
def seedCall (b : BusId) (d : Dir) (addr7 : BitVec 7) (reg count : Byte) (buf : Memory) (s : State) : State :=
  updTs b (fun t =>
    { t with
      addrW := onWire addr7, dir := d, reg := reg, remaining := count, cursor := 0, buf := some buf,
      state := PState.starting.code }) s

/-- Enter `RunToIdle(b)` (R166): from here every step of the machine is a step on `b`, until the call returns. -/
def enterCall (b : BusId) (s : State) : State := { s with cur := b, inCall := true }

/-- The end of `RunToIdle(b)` (R166, R169): the outcome and the array are handed back, `TS[b].buf <- none`, the event. -/
def finishCall (b : BusId) (s : State) : State :=
  let t := s.ts.get b
  let s1 := updTs b (fun t => { t with buf := none }) s
  emit (.ret b t.outcome) { s1 with inCall := false, returns := s.returns ++ [.call b t.outcome t.buf] }

/-- Checks 2 and 3 of R160: the bus exists and no call is in flight. -/
def onFreeBus (n : BitVec 4) (s : State) (f : BusId → Host.Outcome State Fault Refusal) :
    Host.Outcome State Fault Refusal :=
  match busOfNumber n with
  | none => .refused .busOutOfRange
  | some b => if noCall s then f b else .refused .callInFlight

/-- Checks 2 to 4 of R160: the bus exists, no call is in flight, the bus is initialized. -/
def onReadyBus (n : BitVec 4) (s : State) (f : BusId → Host.Outcome State Fault Refusal) :
    Host.Outcome State Fault Refusal :=
  onFreeBus n s fun b => if (s.bus.get b).initialized then f b else .refused .busNotInitialized

/-- INIT_BUS (R164): the checks, then `Reinit`. -/
def execInitBus (bus : BitVec 4) (s : State) : Host.Outcome State Fault Refusal :=
  onFreeBus bus s fun b => .next (reinit b s)

/-- SET_OVERCLOCK (R165): check 3, then `OVERCLOCK <- flag`; no peripheral is touched, no event. -/
def execSetOverclock (flag : Bool) (s : State) : Host.Outcome State Fault Refusal :=
  if noCall s then .next { s with overclock := flag } else .refused .callInFlight

/-- WRITE (R161): the checks, the descriptor of one byte held in an array of its own, then the drive loop. -/
def execWrite (bus : BitVec 4) (addr7 : BitVec 7) (reg data : Byte) (s : State) :
    Host.Outcome State Fault Refusal :=
  onReadyBus bus s fun b => .next (enterCall b (seedCall b .write addr7 reg 1 (memOf [data]) s))

/-- READ (R162): the checks, the array long enough (check 5), the descriptor of `len` bytes, then the drive loop. -/
def execRead (bus : BitVec 4) (addr7 : BitVec 7) (reg len : Byte) (buf : Memory) (s : State) :
    Host.Outcome State Fault Refusal :=
  onReadyBus bus s fun b =>
    if len.toNat ≤ buf.length then .next (enterCall b (seedCall b .read addr7 reg len buf s))
    else .refused .bufferTooShort

/-- GET_ERROR_COUNT (R163): check 3, the counter is handed back; no state of the block changes, no event. -/
def execGetErrorCount (s : State) : Host.Outcome State Fault Refusal :=
  if noCall s then .next { s with returns := s.returns ++ [.errorCount s.errcnt] } else .refused .callInFlight

end Sys2Proof.Machine
end

