-- ==== Sys2Proof/Machine/Commands.lean ====
section
/-! DEFINITION. The peripheral commands as instructions of their own (30_encoding.md R84 to R89): each is the primitive
`Cmd` or `Recv` of 00_scope.md R13 on the bus the machine runs on. A command the block never issues is refused
(93_implementation_defined.md U18). -/

namespace Sys2Proof.Machine

/-- The commands the block issues (R85, R86, R88, R89): four CONFIGURE forms, every SEND, CLEAR of flags 4 and 5.
DESIGN CHOICE (log entry 22): the two forms with `N = remaining` take every `N`, 0 included. R85 writes `N` without a
range, R112 gives the count Restarting configures as `1 .. 255`, and the spec does not say whether such a word with `N = 0`
is one of the four forms or a word the block never issues. -/
def everIssued : Command → Bool
  | .configure _ n .softEnd .startWrite => n == 1
  | .configure _ n .autoEnd .stop => n == 0
  | .configure _ _ .autoEnd .startRead => true
  | .configure _ _ .autoEnd .noStartStop => true
  | .configure _ _ .autoEnd .startWrite => false
  | .configure _ _ .softEnd .noStartStop => false
  | .configure _ _ .softEnd .startRead => false
  | .configure _ _ .softEnd .stop => false
  | .send _ => true
  | .clear f => f == flagNack || f == flagStop

/-- `Cmd(b, c)` for a command the block may issue. -/
def issue (c : Command) (s : State) : Host.Outcome State Fault Refusal :=
  if everIssued c then .next (cmd s.cur c s) else .refused .commandNeverIssued

/-- CONFIGURE (R85). -/
def execConfigure (addr nbytes : Byte) (e : EndMode) (m : SsMode) (s : State) :
    Host.Outcome State Fault Refusal :=
  issue (.configure addr nbytes e m) s

/-- SEND (R86). -/
def execSend (v : Byte) (s : State) : Host.Outcome State Fault Refusal := issue (.send v) s

/-- RECV (R87): one received byte taken, recorded by `EvRecv`. -/
def execRecv (s : State) : Host.Outcome State Fault Refusal := .next (afterRecv s.cur s)

/-- CLEAR (R88). -/
def execClear (f : BitVec 3) (s : State) : Host.Outcome State Fault Refusal := issue (.clear f) s

end Sys2Proof.Machine
end

