-- ==== Sys2Proof/Machine/Recovery.lean ====
section
/-! DEFINITION. BusRecovery, the 9-pulse and STOP unstick (42_bus_recovery.md). -/

namespace Sys2Proof.Machine

/-- Preparation (R142): both lines high, then both pins open-drain outputs, SCL before SDA. -/
def unstickPrepare (b : BusId) (s : State) : State :=
  configOD b .sda (configOD b .scl (drive b .sda .hi (drive b .scl .hi s)))

/-- `StretchWait(b)` (R143) with `k` polls left: read SCL; Hi ends the wait, Lo delays one polling interval and polls
again; with none left the pulse is forced. -/
def stretchWait (b : BusId) : Nat → State → State
  | 0, s => s
  | k + 1, s =>
    if sclAnswer s = .hi then afterReadScl b s
    else stretchWait b k (delay Config.pollUs (afterReadScl b s))

/-- One clock pulse (R144): low then high, one delay after each edge. -/
def pulse (b : BusId) (s : State) : State :=
  delay Config.delayUs (drive b .scl .hi (delay Config.delayUs (drive b .scl .lo s)))

/-- `n` times a stretch wait of at most `k` polls and a pulse (R145). -/
def pulses (b : BusId) (k : Nat) : Nat → State → State
  | 0, s => s
  | n + 1, s => pulses b k n (pulse b (stretchWait b k s))

/-- The manual STOP (R146): clock low, data low, clock high, data high, a delay between consecutive changes. -/
def manualStop (b : BusId) (s : State) : State :=
  let s1 := delay Config.delayUs (drive b .scl .lo s)
  let s2 := delay Config.delayUs (drive b .sda .lo s1)
  let s3 := delay Config.delayUs (drive b .scl .hi s2)
  drive b .sda .hi s3

/-- `Unstick(b)` with a stretch budget of `k` polls before each pulse (R149). -/
def unstickWith (k : Nat) (b : BusId) (s : State) : State :=
  manualStop b (pulses b k Config.unstickPulses (unstickPrepare b s))

/-- `Unstick(b)` (R149), `K = UNSTICK_STRETCH_POLLS`. -/
def unstick (b : BusId) (s : State) : State := unstickWith Config.stretchPolls b s

end Sys2Proof.Machine
end

