-- ==== Sys2Proof/Machine/Funnels.lean ====
section
/-! DEFINITION. The step rules that end a transaction (41_protocol_state_machine.md R115 to R117): the NACK funnel,
Stopping, and the timeout funnel BusError with the error counter. -/

namespace Sys2Proof.Machine

/-- STEP_NACK (R115): an auto-ended stop, NACK-received cleared, on to Stopping; no error counted, no recovery. -/
def execStepNack (s : State) : Host.Outcome State Fault Refusal :=
  onStep s fun b =>
    .next (leaveFault .nack b
      (cmd b (.clear flagNack) (cmd b (.configure (s.ts.get b).addrW 0 .autoEnd .stop) s)))

/-- STEP_STOPPING (R116): stop-detected cleared, Idle; the outcome stays. -/
def execStepStopping (s : State) : Host.Outcome State Fault Refusal :=
  onStep s fun b => .next (setState b .idle (cmd b (.clear flagStop) s))

/-- One bus error counted, wrapping at 16 bits (10_state.md R36, 43_transaction_api.md R171). -/
def countError (s : State) : State :=
  emit (.errInc (s.errcnt + 1)) { s with errcnt := s.errcnt + 1 }

/-- STEP_BUS_ERROR (R117): counter, Unstick, Reinit, in this order and in one step. -/
def execStepBusError (s : State) : Host.Outcome State Fault Refusal :=
  onStep s fun b => .next (leaveFault .busError b (unstick b (countError s)))

end Sys2Proof.Machine
end

