-- ==== Sys2Proof/Machine/Sequencer.lean ====
section
/-! DEFINITION. The step rules of the protocol state machine that sequence a transaction
(41_protocol_state_machine.md R104 to R114). -/

namespace Sys2Proof.Machine

/-- The end of an enter step (R102): the countdown seeded, the wait state set. -/
def enterWait (b : BusId) (wait : PState) (s : State) : State := setState b wait (seedTimeout b s)

/-- One byte moved (R113, R114): cursor and remaining count on, the countdown seeded afresh, and after the last byte the
outcome set and the stop sequence begun. -/
def byteMoved (b : BusId) (s : State) : State :=
  let s1 := updTs b (fun t =>
    { t with cursor := t.cursor + 1, remaining := t.remaining - 1, timeout := Config.tLong }) s
  if (s1.ts.get b).remaining = 0 then setState b .stopping (updTs b outcomeSet s1) else s1

/-- STEP_IDLE (R104): no action, no event. -/
def execStepIdle (s : State) : Host.Outcome State Fault Refusal :=
  onStep s fun _ => .next s

/-- STEP_STARTING (R105): the outcome cleared, the countdown seeded, no hardware action. -/
def execStepStarting (s : State) : Host.Outcome State Fault Refusal :=
  onStep s fun b => .next (enterWait b .startingWait (updTs b outcomeClear s))

/-- STEP_STARTING_WAIT (R106): wait for the bus to be free, then the address phase of the direction. -/
def execStepStartingWait (s : State) : Host.Outcome State Fault Refusal :=
  onStep s fun b =>
    let s1 := afterPoll b s
    .next (if statusBusy (statusAnswer s) then tick b s1
      else setState b (match (s.ts.get b).dir with | .read => .readAddr | .write => .writeAddr) s1)

/-- The address and register phase begun (R107, R108): START and write address, one byte, soft-end mode. -/
def startAddress (b : BusId) (s : State) : State :=
  enterWait b .addrWait (cmd b (.configure (s.ts.get b).addrW 1 .softEnd .startWrite) s)

/-- STEP_READ_ADDR (R107). -/
def execStepReadAddr (s : State) : Host.Outcome State Fault Refusal :=
  onStep s fun b => .next (startAddress b s)

/-- STEP_WRITE_ADDR (R108): the same commands as R107. -/
def execStepWriteAddr (s : State) : Host.Outcome State Fault Refusal :=
  onStep s fun b => .next (startAddress b s)

/-- STEP_ADDR_WAIT (R109): NACK before transmit-ready before the countdown. -/
def execStepAddrWait (s : State) : Host.Outcome State Fault Refusal :=
  onStep s fun b =>
    let S := statusAnswer s
    let s1 := afterPoll b s
    .next (if statusNack S then raise .nack b s1
      else if statusTxReady S then setState b .register s1
      else tick b s1)

/-- STEP_REGISTER (R110): send the register byte. -/
def execStepRegister (s : State) : Host.Outcome State Fault Refusal :=
  onStep s fun b => .next (enterWait b .registerWait (cmd b (.send (s.ts.get b).reg) s))

/-- A transfer of no bytes ends after the register byte (R111): the outcome set, then an auto-ended stop. -/
def zeroLengthStop (b : BusId) (s : State) : State :=
  setState b .stopping (cmd b (.configure (s.ts.get b).addrW 0 .autoEnd .stop) (updTs b outcomeSet s))

/-- STEP_REGISTER_WAIT (R111): NACK before transfer-complete before the countdown. -/
def execStepRegisterWait (s : State) : Host.Outcome State Fault Refusal :=
  onStep s fun b =>
    let S := statusAnswer s
    let s1 := afterPoll b s
    .next (if statusNack S then raise .nack b s1
      else if statusTc S then
        if (s.ts.get b).remaining = 0 then zeroLengthStop b s1 else setState b .restarting s1
      else tick b s1)

/-- STEP_RESTARTING (R112): the data phase configured for the whole remaining count, for a read with a repeated START. -/
def execStepRestarting (s : State) : Host.Outcome State Fault Refusal :=
  onStep s fun b =>
    let t := s.ts.get b
    let m := match t.dir with | .read => SsMode.startRead | .write => SsMode.noStartStop
    .next (enterWait b .transfer (cmd b (.configure t.addrW t.remaining .autoEnd m) s))

/-- STEP_TRANSFER_READ (R113): on receive-ready one byte is taken and stored at the cursor; otherwise the countdown.
A store outside the array has no step (20_memory.md R53). The byte is drawn and consumed only on receive-ready. -/
def execStepTransferRead (s : State) : Host.Outcome State Fault Refusal :=
  onStep s fun b =>
    let t := s.ts.get b
    let s1 := afterPoll b s
    match bufWrite t.buf t.cursor.toNat (recvAnswer s1) with
    | some m =>
      .next (if statusRxReady (statusAnswer s) then
          byteMoved b (updTs b (fun t => { t with buf := some m }) (afterRecv b s1))
        else tick b s1)
    | none => if statusRxReady (statusAnswer s) then .fault .bufferOutOfRange else .next (tick b s1)

/-- STEP_TRANSFER_WRITE (R114): on transmit-ready the byte at the cursor is sent; otherwise the countdown. A read outside
the array has no step (20_memory.md R53). -/
def execStepTransferWrite (s : State) : Host.Outcome State Fault Refusal :=
  onStep s fun b =>
    let t := s.ts.get b
    let s1 := afterPoll b s
    match bufRead t.buf t.cursor.toNat with
    | some v =>
      .next (if statusTxReady (statusAnswer s) then byteMoved b (cmd b (.send v) s1) else tick b s1)
    | none => if statusTxReady (statusAnswer s) then .fault .bufferOutOfRange else .next (tick b s1)

end Sys2Proof.Machine
end

