-- ==== Sys2Proof/Machine/Dispatch.lean ====
section
/-! DEFINITION. One arm per instruction: the call of its meaning. -/

namespace Sys2Proof.Machine

def exec (i : Instr) (s : State) : Host.Outcome State Fault Refusal :=
  match i with
  | .initBus bus => Sys2Proof.Machine.execInitBus bus s
  | .setOverclock flag => Sys2Proof.Machine.execSetOverclock flag s
  | .write bus addr7 reg data => Sys2Proof.Machine.execWrite bus addr7 reg data s
  | .read bus addr7 reg len buf => Sys2Proof.Machine.execRead bus addr7 reg len buf s
  | .getErrorCount => Sys2Proof.Machine.execGetErrorCount s
  | .stepIdle _ => Sys2Proof.Machine.execStepIdle s
  | .stepStopping _ => Sys2Proof.Machine.execStepStopping s
  | .stepStarting _ => Sys2Proof.Machine.execStepStarting s
  | .stepStartingWait _ => Sys2Proof.Machine.execStepStartingWait s
  | .stepReadAddr _ => Sys2Proof.Machine.execStepReadAddr s
  | .stepWriteAddr _ => Sys2Proof.Machine.execStepWriteAddr s
  | .stepAddrWait _ => Sys2Proof.Machine.execStepAddrWait s
  | .stepRegister _ => Sys2Proof.Machine.execStepRegister s
  | .stepRegisterWait _ => Sys2Proof.Machine.execStepRegisterWait s
  | .stepRestarting _ => Sys2Proof.Machine.execStepRestarting s
  | .stepTransferRead => Sys2Proof.Machine.execStepTransferRead s
  | .stepTransferWrite => Sys2Proof.Machine.execStepTransferWrite s
  | .stepNack _ => Sys2Proof.Machine.execStepNack s
  | .stepBusError _ => Sys2Proof.Machine.execStepBusError s
  | .configure addr nbytes endm ssm => Sys2Proof.Machine.execConfigure addr nbytes endm ssm s
  | .send v => Sys2Proof.Machine.execSend v s
  | .recv => Sys2Proof.Machine.execRecv s
  | .clear f => Sys2Proof.Machine.execClear f s

end Sys2Proof.Machine
end

