-- ==== Sys2Proof/Machine/Fetch.lean ====
section
/-! DEFINITION. What the machine runs next. The block has no program counter: while a call is in flight its control point
is the key `TS[b].dir ++ TS[b].state` (10_state.md R31, 41_protocol_state_machine.md R100); otherwise the outside asks. -/

namespace Sys2Proof.Machine

/-- What a fetch finds: nothing asked for, a refusal, or an instruction and the state it runs in. -/
inductive Fetched where
  | nothing
  | rejected (r : Refusal)
  | run (i : Instr) (s : State)
deriving DecidableEq, Repr

/-- What the decoder makes of a word, to be run in `s`. -/
def fetchDecoded (e : Encoded) (s : State) : Fetched :=
  match decode e with
  | .ok i => .run i s
  | .error x => .rejected (.undecodable x)

/-- `Step(b)` (R100): the bus must be initialized; the key of `TS[b]` selects the rule. -/
def fetchKey (b : BusId) (s : State) : Fetched :=
  if (s.bus.get b).initialized then
    fetchDecoded (.key (stepKey (s.ts.get b).dir (s.ts.get b).state)) { s with cur := b }
  else .rejected .busNotInitialized

/-- One request of the outside, already taken from the inbox of `s`. -/
def fetchRequest (r : Request) (s : State) : Fetched :=
  match r with
  | .host w buf => fetchDecoded (.host w buf) s
  | .invoke b => fetchKey b s
  | .command b w => fetchDecoded (.command w) { s with cur := b }

/-- What the machine runs next: in a call a step on its bus (43_transaction_api.md R166), else the oldest request. -/
def fetch (s : State) : Fetched :=
  if s.inCall then fetchKey s.cur s
  else
    match s.inbox with
    | [] => .nothing
    | r :: rest => fetchRequest r { s with inbox := rest }

/-- The test of the drive loop after a step (R166): in a call whose bus is Idle, the call returns. -/
def loopTest (s : State) : State :=
  if s.inCall && (s.ts.get s.cur).state == PState.idle.code then finishCall s.cur s else s

/-- The loop test on the outcome of an instruction. -/
def settle : Host.Outcome State Fault Refusal → Host.Outcome State Fault Refusal
  | .next t => .next (loopTest t)
  | .fault r => .fault r
  | .refused r => .refused r

/-- `s` with a request ahead of all others and no call in flight by the drive loop. -/
def askNext (r : Request) (s : State) : State := { s with inCall := false, inbox := r :: s.inbox }

/-- Bus 0 standing at the step key `k`: initialized (R100), state and direction as the key says, and, where no buffer is
held, the one-byte transfer that a call in that state would hold (10_state.md R41; log entry 8). -/
def atKey (k : BitVec 5) (s : State) : State :=
  let t := s.ts.get .bus0
  let t1 := match t.buf with
    | some _ => t
    | none => { t with buf := some (memOf [0]), cursor := 0, remaining := 1 }
  { s with
    bus := s.bus.set .bus0 { s.bus.get .bus0 with initialized := true }
    ts := s.ts.set .bus0 { t1 with state := k.extractLsb' 0 4, dir := Dir.ofBit (k.getLsbD 4) } }

/-- `s` with an encoded instruction where the next fetch finds it. -/
def placeNext (e : Encoded) (s : State) : State :=
  match e with
  | .host w buf => askNext (.host w buf) s
  | .key k => askNext (.invoke .bus0) (atKey k s)
  | .command w => askNext (.command s.cur w) s

end Sys2Proof.Machine
end

