-- ==== Sys2Proof/Machine/Step.lean ====
section
/-! DEFINITION. One step of the machine. -/

namespace Sys2Proof.Machine

/-- One step: what is to run next is fetched and run, then the drive loop tests whether its call is over. With nothing
asked for the state stays (log entry 16). -/
def step (s : State) : Host.Outcome State Fault Refusal :=
  match fetch s with
  | .nothing => .next s
  | .rejected r => .refused r
  | .run i t => settle (exec i t)

/-- `s` with the table word `w` stored where `step` fetches its next instruction. -/
def State.withFetchWord (s : State) (nbits w : Nat) : State :=
  match tableEncoded nbits w with
  | some e => placeNext e s
  | none => s

end Sys2Proof.Machine
end

