-- ==== Sys2Proof/Laws/State.lean ====
section
/-! SUPPORT. What each update leaves in each field of the state: one lemma per field, true by unfolding the update
once, so that no later proof unfolds a record. -/

namespace Sys2Proof.Machine

/-! ### The table of the two buses -/

@[simp] theorem PerBus.get_set_same {α : Type} (p : PerBus α) (b : BusId) (v : α) : (p.set b v).get b = v := by
  cases b <;> rfl

@[simp] theorem PerBus.get_set_other {α : Type} (p : PerBus α) {b c : BusId} (v : α) (h : c ≠ b) :
    (p.set b v).get c = p.get c := by
  cases b <;> cases c <;> first | rfl | exact absurd rfl h

@[simp] theorem PerBus.set_set {α : Type} (p : PerBus α) (b : BusId) (v w : α) :
    (p.set b v).set b w = p.set b w := by
  cases b <;> rfl

@[simp] theorem PerBus.set_get {α : Type} (p : PerBus α) (b : BusId) : p.set b (p.get b) = p := by
  cases b <;> rfl

theorem PerBus.ext_get {α : Type} {p q : PerBus α} (h : ∀ b, p.get b = q.get b) : p = q := by
  have h0 := h .bus0
  have h1 := h .bus1
  cases p; cases q; simp_all [PerBus.get]

/-! ### `updTs` -/

section
variable (b : BusId) (f : TransactionState → TransactionState) (s : State)

@[simp] theorem updTs_ts : (updTs b f s).ts = s.ts.set b (f (s.ts.get b)) := rfl
@[simp] theorem updTs_bus : (updTs b f s).bus = s.bus := rfl
@[simp] theorem updTs_overclock : (updTs b f s).overclock = s.overclock := rfl
@[simp] theorem updTs_errcnt : (updTs b f s).errcnt = s.errcnt := rfl
@[simp] theorem updTs_trace : (updTs b f s).trace = s.trace := rfl
@[simp] theorem updTs_env : (updTs b f s).env = s.env := rfl
@[simp] theorem updTs_cur : (updTs b f s).cur = s.cur := rfl
@[simp] theorem updTs_inCall : (updTs b f s).inCall = s.inCall := rfl
@[simp] theorem updTs_inbox : (updTs b f s).inbox = s.inbox := rfl
@[simp] theorem updTs_returns : (updTs b f s).returns = s.returns := rfl

end

/-! ### `setState` -/

section
variable (b : BusId) (p : PState) (s : State)

@[simp] theorem setState_ts : (setState b p s).ts = s.ts.set b { s.ts.get b with state := p.code } := rfl
@[simp] theorem setState_bus : (setState b p s).bus = s.bus := rfl
@[simp] theorem setState_overclock : (setState b p s).overclock = s.overclock := rfl
@[simp] theorem setState_errcnt : (setState b p s).errcnt = s.errcnt := rfl
@[simp] theorem setState_trace : (setState b p s).trace = s.trace := rfl
@[simp] theorem setState_env : (setState b p s).env = s.env := rfl
@[simp] theorem setState_cur : (setState b p s).cur = s.cur := rfl
@[simp] theorem setState_inCall : (setState b p s).inCall = s.inCall := rfl
@[simp] theorem setState_inbox : (setState b p s).inbox = s.inbox := rfl
@[simp] theorem setState_returns : (setState b p s).returns = s.returns := rfl

end

/-! ### `seedTimeout` -/

section
variable (b : BusId) (s : State)

@[simp] theorem seedTimeout_ts : (seedTimeout b s).ts = s.ts.set b { s.ts.get b with timeout := Config.tLong } := rfl
@[simp] theorem seedTimeout_bus : (seedTimeout b s).bus = s.bus := rfl
@[simp] theorem seedTimeout_overclock : (seedTimeout b s).overclock = s.overclock := rfl
@[simp] theorem seedTimeout_errcnt : (seedTimeout b s).errcnt = s.errcnt := rfl
@[simp] theorem seedTimeout_trace : (seedTimeout b s).trace = s.trace := rfl
@[simp] theorem seedTimeout_env : (seedTimeout b s).env = s.env := rfl
@[simp] theorem seedTimeout_cur : (seedTimeout b s).cur = s.cur := rfl
@[simp] theorem seedTimeout_inCall : (seedTimeout b s).inCall = s.inCall := rfl
@[simp] theorem seedTimeout_inbox : (seedTimeout b s).inbox = s.inbox := rfl
@[simp] theorem seedTimeout_returns : (seedTimeout b s).returns = s.returns := rfl

end

/-! ### `emit` -/

section
variable (e : Event) (s : State)

@[simp] theorem emit_ts : (emit e s).ts = s.ts := rfl
@[simp] theorem emit_bus : (emit e s).bus = s.bus := rfl
@[simp] theorem emit_overclock : (emit e s).overclock = s.overclock := rfl
@[simp] theorem emit_errcnt : (emit e s).errcnt = s.errcnt := rfl
@[simp] theorem emit_trace : (emit e s).trace = s.trace ++ [e] := rfl
@[simp] theorem emit_env : (emit e s).env = s.env := rfl
@[simp] theorem emit_cur : (emit e s).cur = s.cur := rfl
@[simp] theorem emit_inCall : (emit e s).inCall = s.inCall := rfl
@[simp] theorem emit_inbox : (emit e s).inbox = s.inbox := rfl
@[simp] theorem emit_returns : (emit e s).returns = s.returns := rfl

end

/-! ### `afterPoll` -/

section
variable (b : BusId) (s : State)

@[simp] theorem afterPoll_ts : (afterPoll b s).ts = s.ts := rfl
@[simp] theorem afterPoll_bus : (afterPoll b s).bus = s.bus := rfl
@[simp] theorem afterPoll_overclock : (afterPoll b s).overclock = s.overclock := rfl
@[simp] theorem afterPoll_errcnt : (afterPoll b s).errcnt = s.errcnt := rfl
@[simp] theorem afterPoll_trace : (afterPoll b s).trace = s.trace ++ [.poll b (s.ts.get b).state (statusAnswer s)] := rfl
@[simp] theorem afterPoll_env : (afterPoll b s).env = s.env.afterStatus := rfl
@[simp] theorem afterPoll_cur : (afterPoll b s).cur = s.cur := rfl
@[simp] theorem afterPoll_inCall : (afterPoll b s).inCall = s.inCall := rfl
@[simp] theorem afterPoll_inbox : (afterPoll b s).inbox = s.inbox := rfl
@[simp] theorem afterPoll_returns : (afterPoll b s).returns = s.returns := rfl

end

/-! ### `afterRecv` -/

section
variable (b : BusId) (s : State)

@[simp] theorem afterRecv_ts : (afterRecv b s).ts = s.ts := rfl
@[simp] theorem afterRecv_bus : (afterRecv b s).bus = s.bus := rfl
@[simp] theorem afterRecv_overclock : (afterRecv b s).overclock = s.overclock := rfl
@[simp] theorem afterRecv_errcnt : (afterRecv b s).errcnt = s.errcnt := rfl
@[simp] theorem afterRecv_trace : (afterRecv b s).trace = s.trace ++ [.recv b (recvAnswer s)] := rfl
@[simp] theorem afterRecv_env : (afterRecv b s).env = s.env.afterRecv := rfl
@[simp] theorem afterRecv_cur : (afterRecv b s).cur = s.cur := rfl
@[simp] theorem afterRecv_inCall : (afterRecv b s).inCall = s.inCall := rfl
@[simp] theorem afterRecv_inbox : (afterRecv b s).inbox = s.inbox := rfl
@[simp] theorem afterRecv_returns : (afterRecv b s).returns = s.returns := rfl

end

/-! ### `afterReadScl` -/

section
variable (b : BusId) (s : State)

@[simp] theorem afterReadScl_ts : (afterReadScl b s).ts = s.ts := rfl
@[simp] theorem afterReadScl_bus : (afterReadScl b s).bus = s.bus := rfl
@[simp] theorem afterReadScl_overclock : (afterReadScl b s).overclock = s.overclock := rfl
@[simp] theorem afterReadScl_errcnt : (afterReadScl b s).errcnt = s.errcnt := rfl
@[simp] theorem afterReadScl_trace : (afterReadScl b s).trace = s.trace ++ [.readSCL b (sclAnswer s)] := rfl
@[simp] theorem afterReadScl_env : (afterReadScl b s).env = s.env.afterScl := rfl
@[simp] theorem afterReadScl_cur : (afterReadScl b s).cur = s.cur := rfl
@[simp] theorem afterReadScl_inCall : (afterReadScl b s).inCall = s.inCall := rfl
@[simp] theorem afterReadScl_inbox : (afterReadScl b s).inbox = s.inbox := rfl
@[simp] theorem afterReadScl_returns : (afterReadScl b s).returns = s.returns := rfl

end

/-! ### `cmd` -/

section
variable (b : BusId) (c : Command) (s : State)

@[simp] theorem cmd_ts : (cmd b c s).ts = s.ts := rfl
@[simp] theorem cmd_bus : (cmd b c s).bus = s.bus := rfl
@[simp] theorem cmd_overclock : (cmd b c s).overclock = s.overclock := rfl
@[simp] theorem cmd_errcnt : (cmd b c s).errcnt = s.errcnt := rfl
@[simp] theorem cmd_trace : (cmd b c s).trace = s.trace ++ [.cmd b c] := rfl
@[simp] theorem cmd_env : (cmd b c s).env = s.env := rfl
@[simp] theorem cmd_cur : (cmd b c s).cur = s.cur := rfl
@[simp] theorem cmd_inCall : (cmd b c s).inCall = s.inCall := rfl
@[simp] theorem cmd_inbox : (cmd b c s).inbox = s.inbox := rfl
@[simp] theorem cmd_returns : (cmd b c s).returns = s.returns := rfl

end

/-! ### `drive` -/

section
variable (b : BusId) (pin : Line) (lvl : Level) (s : State)

@[simp] theorem drive_ts : (drive b pin lvl s).ts = s.ts := rfl
@[simp] theorem drive_bus : (drive b pin lvl s).bus = s.bus := rfl
@[simp] theorem drive_overclock : (drive b pin lvl s).overclock = s.overclock := rfl
@[simp] theorem drive_errcnt : (drive b pin lvl s).errcnt = s.errcnt := rfl
@[simp] theorem drive_trace : (drive b pin lvl s).trace = s.trace ++ [.line b pin lvl] := rfl
@[simp] theorem drive_env : (drive b pin lvl s).env = s.env := rfl
@[simp] theorem drive_cur : (drive b pin lvl s).cur = s.cur := rfl
@[simp] theorem drive_inCall : (drive b pin lvl s).inCall = s.inCall := rfl
@[simp] theorem drive_inbox : (drive b pin lvl s).inbox = s.inbox := rfl
@[simp] theorem drive_returns : (drive b pin lvl s).returns = s.returns := rfl

end

/-! ### `configOD` -/

section
variable (b : BusId) (pin : Line) (s : State)

@[simp] theorem configOD_ts : (configOD b pin s).ts = s.ts := rfl
@[simp] theorem configOD_bus : (configOD b pin s).bus = s.bus := rfl
@[simp] theorem configOD_overclock : (configOD b pin s).overclock = s.overclock := rfl
@[simp] theorem configOD_errcnt : (configOD b pin s).errcnt = s.errcnt := rfl
@[simp] theorem configOD_trace : (configOD b pin s).trace = s.trace ++ [.configOD b pin] := rfl
@[simp] theorem configOD_env : (configOD b pin s).env = s.env := rfl
@[simp] theorem configOD_cur : (configOD b pin s).cur = s.cur := rfl
@[simp] theorem configOD_inCall : (configOD b pin s).inCall = s.inCall := rfl
@[simp] theorem configOD_inbox : (configOD b pin s).inbox = s.inbox := rfl
@[simp] theorem configOD_returns : (configOD b pin s).returns = s.returns := rfl

end

/-! ### `delay` -/

section
variable (us : Nat) (s : State)

@[simp] theorem delay_ts : (delay us s).ts = s.ts := rfl
@[simp] theorem delay_bus : (delay us s).bus = s.bus := rfl
@[simp] theorem delay_overclock : (delay us s).overclock = s.overclock := rfl
@[simp] theorem delay_errcnt : (delay us s).errcnt = s.errcnt := rfl
@[simp] theorem delay_trace : (delay us s).trace = s.trace ++ [.delay us] := rfl
@[simp] theorem delay_env : (delay us s).env = s.env := rfl
@[simp] theorem delay_cur : (delay us s).cur = s.cur := rfl
@[simp] theorem delay_inCall : (delay us s).inCall = s.inCall := rfl
@[simp] theorem delay_inbox : (delay us s).inbox = s.inbox := rfl
@[simp] theorem delay_returns : (delay us s).returns = s.returns := rfl

end

/-! ### `reinit` -/

section
variable (b : BusId) (s : State)

@[simp] theorem reinit_ts : (reinit b s).ts = s.ts.set b (reinitTs (s.ts.get b)) := rfl
@[simp] theorem reinit_bus : (reinit b s).bus = s.bus.set b { initialized := true, profile := profileOf s.overclock } := rfl
@[simp] theorem reinit_overclock : (reinit b s).overclock = s.overclock := rfl
@[simp] theorem reinit_errcnt : (reinit b s).errcnt = s.errcnt := rfl
@[simp] theorem reinit_trace : (reinit b s).trace = s.trace ++ [.reinit b (profileOf s.overclock)] := rfl
@[simp] theorem reinit_env : (reinit b s).env = s.env := rfl
@[simp] theorem reinit_cur : (reinit b s).cur = s.cur := rfl
@[simp] theorem reinit_inCall : (reinit b s).inCall = s.inCall := rfl
@[simp] theorem reinit_inbox : (reinit b s).inbox = s.inbox := rfl
@[simp] theorem reinit_returns : (reinit b s).returns = s.returns := rfl

end

/-! ### `enterCall` -/

section
variable (b : BusId) (s : State)

@[simp] theorem enterCall_ts : (enterCall b s).ts = s.ts := rfl
@[simp] theorem enterCall_bus : (enterCall b s).bus = s.bus := rfl
@[simp] theorem enterCall_overclock : (enterCall b s).overclock = s.overclock := rfl
@[simp] theorem enterCall_errcnt : (enterCall b s).errcnt = s.errcnt := rfl
@[simp] theorem enterCall_trace : (enterCall b s).trace = s.trace := rfl
@[simp] theorem enterCall_env : (enterCall b s).env = s.env := rfl
@[simp] theorem enterCall_cur : (enterCall b s).cur = b := rfl
@[simp] theorem enterCall_inCall : (enterCall b s).inCall = true := rfl
@[simp] theorem enterCall_inbox : (enterCall b s).inbox = s.inbox := rfl
@[simp] theorem enterCall_returns : (enterCall b s).returns = s.returns := rfl

end

/-! ### `seedCall` -/

section
variable (b : BusId) (d : Dir) (addr7 : BitVec 7) (reg count : Byte) (buf : Memory) (s : State)

@[simp] theorem seedCall_ts : (seedCall b d addr7 reg count buf s).ts = s.ts.set b { s.ts.get b with addrW := onWire addr7, dir := d, reg := reg, remaining := count, cursor := 0, buf := some buf, state := PState.starting.code } := rfl
@[simp] theorem seedCall_bus : (seedCall b d addr7 reg count buf s).bus = s.bus := rfl
@[simp] theorem seedCall_overclock : (seedCall b d addr7 reg count buf s).overclock = s.overclock := rfl
@[simp] theorem seedCall_errcnt : (seedCall b d addr7 reg count buf s).errcnt = s.errcnt := rfl
@[simp] theorem seedCall_trace : (seedCall b d addr7 reg count buf s).trace = s.trace := rfl
@[simp] theorem seedCall_env : (seedCall b d addr7 reg count buf s).env = s.env := rfl
@[simp] theorem seedCall_cur : (seedCall b d addr7 reg count buf s).cur = s.cur := rfl
@[simp] theorem seedCall_inCall : (seedCall b d addr7 reg count buf s).inCall = s.inCall := rfl
@[simp] theorem seedCall_inbox : (seedCall b d addr7 reg count buf s).inbox = s.inbox := rfl
@[simp] theorem seedCall_returns : (seedCall b d addr7 reg count buf s).returns = s.returns := rfl

end

/-! ### `finishCall` -/

section
variable (b : BusId) (s : State)

@[simp] theorem finishCall_ts : (finishCall b s).ts = s.ts.set b { s.ts.get b with buf := none } := rfl
@[simp] theorem finishCall_bus : (finishCall b s).bus = s.bus := rfl
@[simp] theorem finishCall_overclock : (finishCall b s).overclock = s.overclock := rfl
@[simp] theorem finishCall_errcnt : (finishCall b s).errcnt = s.errcnt := rfl
@[simp] theorem finishCall_trace : (finishCall b s).trace = s.trace ++ [.ret b (s.ts.get b).outcome] := rfl
@[simp] theorem finishCall_env : (finishCall b s).env = s.env := rfl
@[simp] theorem finishCall_cur : (finishCall b s).cur = s.cur := rfl
@[simp] theorem finishCall_inCall : (finishCall b s).inCall = false := rfl
@[simp] theorem finishCall_inbox : (finishCall b s).inbox = s.inbox := rfl
@[simp] theorem finishCall_returns : (finishCall b s).returns = s.returns ++ [.call b (s.ts.get b).outcome (s.ts.get b).buf] := rfl

end

/-! ### `countError` -/

section
variable (s : State)

@[simp] theorem countError_ts : (countError s).ts = s.ts := rfl
@[simp] theorem countError_bus : (countError s).bus = s.bus := rfl
@[simp] theorem countError_overclock : (countError s).overclock = s.overclock := rfl
@[simp] theorem countError_errcnt : (countError s).errcnt = s.errcnt + 1 := rfl
@[simp] theorem countError_trace : (countError s).trace = s.trace ++ [.errInc (s.errcnt + 1)] := rfl
@[simp] theorem countError_env : (countError s).env = s.env := rfl
@[simp] theorem countError_cur : (countError s).cur = s.cur := rfl
@[simp] theorem countError_inCall : (countError s).inCall = s.inCall := rfl
@[simp] theorem countError_inbox : (countError s).inbox = s.inbox := rfl
@[simp] theorem countError_returns : (countError s).returns = s.returns := rfl

end

end Sys2Proof.Machine
end

