-- ==== Sys2Proof/Laws/Memory.lean ====
section
/-! SUPPORT. The laws of the borrowed array (20_memory.md R50 to R53): a read after a write, what a write leaves alone,
when an index has a byte, and that every operation keeps the canonical form. -/

namespace Sys2Proof.Machine

theorem memRead_cons (c : Host.Cell) (m : Memory) (i : Nat) :
    memRead (c :: m) i = if c.1 = i then some c.2 else memRead m i := rfl

theorem memPut_cons (c : Host.Cell) (m : Memory) (i : Nat) (v : Byte) :
    memPut (c :: m) i v = (if c.1 = i then (i, v) else c) :: memPut m i v := rfl

@[simp] theorem memPut_length (m : Memory) (i : Nat) (v : Byte) : (memPut m i v).length = m.length := by
  simp [memPut]

/-- A write leaves every other byte alone. -/
theorem memRead_memPut_other (m : Memory) {i j : Nat} (v : Byte) (h : j ≠ i) :
    memRead (memPut m i v) j = memRead m j := by
  induction m with
  | nil => rfl
  | cons c m ih =>
    rw [memPut_cons, memRead_cons, memRead_cons, ih]
    by_cases hc : c.1 = i
    · have h1 : ¬ i = j := fun e => h e.symm
      simp [hc, h1]
    · simp [hc]

/-- A read after a write to the same index gives the value written. -/
theorem memRead_memPut_same (m : Memory) (i : Nat) (v : Byte) (h : (memRead m i).isSome) :
    memRead (memPut m i v) i = some v := by
  induction m with
  | nil => simp [memRead] at h
  | cons c m ih =>
    rw [memPut_cons, memRead_cons]
    by_cases hc : c.1 = i
    · simp [hc]
    · rw [memRead_cons] at h
      simp only [hc, if_false] at h ⊢
      exact ih h

theorem wfFrom_memPut (m : Memory) (a i : Nat) (v : Byte) :
    Memory.wfFrom a (memPut m i v) = Memory.wfFrom a m := by
  induction m generalizing a with
  | nil => rfl
  | cons c m ih =>
    rw [memPut_cons]
    by_cases hc : c.1 = i
    · simp [Memory.wfFrom, hc, ih]
    · simp [Memory.wfFrom, hc, ih]

/-- A write keeps the canonical form. -/
theorem memPut_wf (m : Memory) (i : Nat) (v : Byte) : (memPut m i v).wf = m.wf := wfFrom_memPut m 0 i v

theorem memRead_isSome_from (m : Memory) (a i : Nat) (h : Memory.wfFrom a m = true) :
    (memRead m i).isSome = true ↔ a ≤ i ∧ i < a + m.length := by
  induction m generalizing a with
  | nil => simp [memRead]
  | cons c m ih =>
    simp only [Memory.wfFrom, Bool.and_eq_true, beq_iff_eq] at h
    have := ih (a + 1) h.2
    rw [memRead_cons, List.length_cons]
    by_cases hc : c.1 = i
    · simp [hc]; omega
    · simp only [hc, if_false, this]; omega

/-- In an array of `n` bytes exactly the indices below `n` have a byte. -/
theorem memRead_isSome_iff (m : Memory) (i : Nat) (h : m.wf = true) :
    (memRead m i).isSome = true ↔ i < m.length := by
  rw [memRead_isSome_from m 0 i h]
  omega

theorem memWrite_eq_some {m m' : Memory} {i : Nat} {v : Byte} (h : memWrite m i v = some m') :
    (memRead m i).isSome ∧ m' = memPut m i v := by
  unfold memWrite at h
  split at h
  · next hr => exact ⟨by simp [hr], (Option.some.inj h).symm⟩
  · exact absurd h (by simp)

theorem memWrite_of_isSome {m : Memory} {i : Nat} (v : Byte) (h : (memRead m i).isSome) :
    memWrite m i v = some (memPut m i v) := by
  unfold memWrite
  split
  · rfl
  · next hr => simp [hr] at h

/-- Every array the operations build is canonical: a write. -/
theorem memWrite_wf {m m' : Memory} {i : Nat} {v : Byte} (h : memWrite m i v = some m') : m'.wf = m.wf := by
  rw [(memWrite_eq_some h).2, memPut_wf]

theorem cellsFrom_wf (a : Nat) (vs : List Byte) : Memory.wfFrom a (cellsFrom a vs) = true := by
  induction vs generalizing a with
  | nil => rfl
  | cons v vs ih => simp [cellsFrom, Memory.wfFrom, ih]

/-- Every array the operations build is canonical: an array of given bytes. -/
theorem memOf_wf (vs : List Byte) : (memOf vs).wf = true := cellsFrom_wf 0 vs

theorem cellsFrom_length (a : Nat) (vs : List Byte) : (cellsFrom a vs).length = vs.length := by
  induction vs generalizing a with
  | nil => rfl
  | cons v vs ih => simp [cellsFrom, ih]

@[simp] theorem memOf_length (vs : List Byte) : (memOf vs).length = vs.length := cellsFrom_length 0 vs

theorem zeroCells_wf (a n : Nat) : Memory.wfFrom a (zeroCells a n) = true := by
  induction n generalizing a with
  | zero => rfl
  | succ n ih => simp [zeroCells, Memory.wfFrom, ih]

/-- Every array the operations build is canonical: the array taken to stand beside a table word. -/
theorem besideWord_wf (w : Word) : (besideWord w).wf = true := by
  unfold besideWord
  split
  · exact zeroCells_wf 0 _
  · rfl

end Sys2Proof.Machine
end

