-- ==== Sys2Proof/Laws/Ops.lean ====
section
/-! SUPPORT. One lemma for each shared operation: everything it does, said once. -/

namespace Sys2Proof.Machine

/-! ### Fault entry and the countdown -/

theorem raise_nack (b : BusId) (s : State) : raise .nack b s = setState b .nack s := rfl

theorem raise_busError (b : BusId) (s : State) : raise .busError b s = setState b .busError s := rfl

/-- `tick` counts down by one and changes the state only at 0. -/
theorem tick_eq (b : BusId) (s : State) :
    tick b s = updTs b (fun t =>
      { t with
        timeout := t.timeout - 1,
        state := if t.timeout - 1 = 0 then PState.busError.code else t.state }) s := by
  unfold tick
  simp only [raise_busError, updTs_ts, PerBus.get_set_same]
  by_cases h : (s.ts.get b).timeout - 1 = 0
  · simp only [h, if_true, setState, updTs, PerBus.get_set_same, PerBus.set_set]
  · simp only [h, if_false, updTs]

/-- The byte counted, and the last byte's effect. -/
theorem byteMoved_eq (b : BusId) (s : State) :
    byteMoved b s = updTs b (fun t =>
      { t with
        cursor := t.cursor + 1, remaining := t.remaining - 1, timeout := Config.tLong,
        outcome := t.outcome || t.remaining - 1 == 0,
        state := if t.remaining - 1 = 0 then PState.stopping.code else t.state }) s := by
  unfold byteMoved
  simp only [updTs_ts, PerBus.get_set_same]
  by_cases h : (s.ts.get b).remaining - 1 = 0
  · simp only [h, if_true, setState, updTs, outcomeSet, PerBus.get_set_same, PerBus.set_set, beq_self_eq_true,
      Bool.or_true]
  · have h' : ((s.ts.get b).remaining - 1 == 0) = false := beq_eq_false_iff_ne.mpr h
    simp only [h, h', if_false, updTs, Bool.or_false]

theorem enterWait_eq (b : BusId) (p : PState) (s : State) :
    enterWait b p s = updTs b (fun t => { t with timeout := Config.tLong, state := p.code }) s := by
  simp [enterWait, setState, seedTimeout, updTs]

/-! ### The environment -/

theorem afterStatus_recv (e : Env) : e.afterStatus.recv = e.recv := by
  unfold Env.afterStatus; split <;> rfl

theorem afterStatus_scl (e : Env) : e.afterStatus.scl = e.scl := by
  unfold Env.afterStatus; split <;> rfl

theorem afterRecv_status (e : Env) : e.afterRecv.status = e.status := by
  unfold Env.afterRecv; split <;> rfl

theorem afterRecv_scl (e : Env) : e.afterRecv.scl = e.scl := by
  unfold Env.afterRecv; split <;> rfl

/-- A status sample that is lined up is the next poll's answer. -/
theorem statusAnswer_cons (s : State) (S : BitVec 6) (rest : List (BitVec 6)) (h : s.env.status = S :: rest) :
    statusAnswer s = S := by
  simp [statusAnswer, h]

/-- A byte that is lined up is the next receive's answer. -/
theorem recvAnswer_cons (s : State) (v : Byte) (rest : List Byte) (h : s.env.recv = v :: rest) :
    recvAnswer s = v := by
  simp [recvAnswer, h]

/-! ### Guards -/

theorem onStep_of_initialized (s : State) (f : BusId → Host.Outcome State Fault Refusal)
    (h : (s.bus.get s.cur).initialized = true) : onStep s f = f s.cur := by
  simp [onStep, h]

theorem onStep_next {s t : State} {f : BusId → Host.Outcome State Fault Refusal} (h : onStep s f = .next t) :
    (s.bus.get s.cur).initialized = true ∧ f s.cur = .next t := by
  unfold onStep at h
  split at h
  · next hi => exact ⟨hi, h⟩
  · exact absurd h (by simp)

theorem onFreeBus_next {n : BitVec 4} {s t : State} {f : BusId → Host.Outcome State Fault Refusal}
    (h : onFreeBus n s f = .next t) : ∃ b, busOfNumber n = some b ∧ noCall s = true ∧ f b = .next t := by
  unfold onFreeBus at h
  split at h
  · exact absurd h (by simp)
  · next b hb =>
    split at h
    · next hn => exact ⟨b, hb, hn, h⟩
    · exact absurd h (by simp)

theorem onReadyBus_next {n : BitVec 4} {s t : State} {f : BusId → Host.Outcome State Fault Refusal}
    (h : onReadyBus n s f = .next t) :
    ∃ b, busOfNumber n = some b ∧ noCall s = true ∧ (s.bus.get b).initialized = true ∧ f b = .next t := by
  obtain ⟨b, hb, hn, hf⟩ := onFreeBus_next h
  split at hf
  · next hi => exact ⟨b, hb, hn, hi, hf⟩
  · exact absurd hf (by simp)

theorem issue_next {c : Command} {s t : State} (h : issue c s = .next t) :
    everIssued c = true ∧ t = cmd s.cur c s := by
  unfold issue at h
  split at h
  · next he => exact ⟨he, by simpa using h.symm⟩
  · exact absurd h (by simp)

/-! ### Fetch and step -/

/-- What a step that answers a next state did: nothing was asked for, or the instruction fetched ran and the loop test
followed. -/
theorem step_next {s t : State} (h : step s = .next t) :
    (fetch s = .nothing ∧ t = s) ∨
      ∃ i u v, fetch s = .run i u ∧ exec i u = .next v ∧ t = loopTest v := by
  unfold step at h
  split at h
  · next hf => exact .inl ⟨hf, by simpa using h.symm⟩
  · exact absurd h (by simp)
  · next i u hf =>
    right
    generalize hv : exec i u = o at h
    cases o with
    | next v => exact ⟨i, u, v, hf, hv, by simpa [settle] using h.symm⟩
    | fault r => exact absurd h (by simp [settle])
    | refused r => exact absurd h (by simp [settle])

theorem fetchDecoded_run {e : Encoded} {s u : State} {i : Instr} (h : fetchDecoded e s = .run i u) :
    decode e = .ok i ∧ u = s := by
  unfold fetchDecoded at h
  split at h
  · next hd => simp only [Fetched.run.injEq] at h; exact ⟨h.1 ▸ hd, h.2.symm⟩
  · exact absurd h (by simp)

theorem fetchKey_run {b : BusId} {s u : State} {i : Instr} (h : fetchKey b s = .run i u) :
    (s.bus.get b).initialized = true ∧ decodeKey (stepKey (s.ts.get b).dir (s.ts.get b).state) = .ok i
      ∧ u = { s with cur := b } := by
  unfold fetchKey at h
  split at h
  · next hi =>
    obtain ⟨hd, hu⟩ := fetchDecoded_run h
    exact ⟨hi, hd, hu⟩
  · exact absurd h (by simp)

/-- The state part and the direction part of a step key are what it was made of. -/
theorem stepKey_state (d : Dir) (c : BitVec 4) : (stepKey d c).extractLsb' 0 4 = c := by
  cases d <;> (revert c; decide)

theorem stepKey_dir (d : Dir) (c : BitVec 4) : Dir.ofBit ((stepKey d c).getLsbD 4) = d := by
  cases d <;> (revert c; decide)

/-- The key of a state and a direction decodes to the rule they select (41_protocol_state_machine.md R100). -/
theorem decodeKey_stepKey (d : Dir) (c : BitVec 4) :
    decodeKey (stepKey d c) =
      match PState.ofCode c with
      | some p => .ok (stepOf p d)
      | none => .error .reservedStateCode := by
  unfold decodeKey
  rw [stepKey_state, stepKey_dir]
  all_goals rfl

theorem ofCode_code (p : PState) : PState.ofCode p.code = some p := by cases p <;> rfl

theorem ofCode_eq_some {c : BitVec 4} {p : PState} (h : PState.ofCode c = some p) : c = p.code := by
  revert h; revert c; cases p <;> decide

end Sys2Proof.Machine
end

