-- ==== Sys2Proof/Laws/Encoding.lean ====
section
/-! SUPPORT. The bits of the words the encoder builds, and each field read back (30_encoding.md R73, R85 to R88). -/

namespace Sys2Proof

theorem hostWord_getLsbD (op bus : BitVec 4) (a : BitVec 7) (r d : Byte) (i : Nat) :
    (hostWord op bus a r d).getLsbD i =
      if i < 8 then d.getLsbD i
      else if i - 8 < 8 then r.getLsbD (i - 8)
      else if i - 8 - 8 < 7 then a.getLsbD (i - 8 - 8)
      else if i - 8 - 8 - 7 < 1 then (0#1).getLsbD (i - 8 - 8 - 7)
      else if i - 8 - 8 - 7 - 1 < 4 then bus.getLsbD (i - 8 - 8 - 7 - 1)
      else op.getLsbD (i - 8 - 8 - 7 - 1 - 4) := by
  unfold hostWord
  show BitVec.getLsbD (w := 4 + 4 + 1 + 7 + 8 + 8) (op ++ bus ++ 0#1 ++ a ++ r ++ d) i = _
  simp only [BitVec.getLsbD_append]

theorem configureWord_getLsbD (a n : Byte) (e : EndMode) (m : SsMode) (i : Nat) :
    (configureWord a n e m).getLsbD i =
      if i < 8 then (0#8).getLsbD i
      else if i - 8 < 8 then n.getLsbD (i - 8)
      else if i - 8 - 8 < 8 then a.getLsbD (i - 8 - 8)
      else if i - 8 - 8 - 8 < 1 then e.bit.getLsbD (i - 8 - 8 - 8)
      else if i - 8 - 8 - 8 - 1 < 1 then (0#1).getLsbD (i - 8 - 8 - 8 - 1)
      else if i - 8 - 8 - 8 - 1 - 1 < 2 then m.code.getLsbD (i - 8 - 8 - 8 - 1 - 1)
      else (1#4).getLsbD (i - 8 - 8 - 8 - 1 - 1 - 2) := by
  unfold configureWord
  show BitVec.getLsbD (w := 4 + 2 + 1 + 1 + 8 + 8 + 8) (1#4 ++ m.code ++ 0#1 ++ e.bit ++ a ++ n ++ 0#8) i = _
  simp only [BitVec.getLsbD_append]

theorem sendWord_getLsbD (v : Byte) (i : Nat) :
    (sendWord v).getLsbD i =
      if i < 8 then v.getLsbD i
      else if i - 8 < 20 then (0#20).getLsbD (i - 8)
      else (2#4).getLsbD (i - 8 - 20) := by
  unfold sendWord
  show BitVec.getLsbD (w := 4 + 20 + 8) (2#4 ++ 0#20 ++ v) i = _
  simp only [BitVec.getLsbD_append]

section
variable (op bus : BitVec 4) (a : BitVec 7) (r d : Byte)

theorem wordTop_hostWord : wordTop (hostWord op bus a r d) = op := by
  apply BitVec.eq_of_getLsbD_eq
  intro i hi
  simp only [wordTop, BitVec.getLsbD_extractLsb', hostWord_getLsbD, hi, decide_true, Bool.true_and]
  interval_cases i <;> rfl

theorem hostBus_hostWord : hostBus (hostWord op bus a r d) = bus := by
  apply BitVec.eq_of_getLsbD_eq
  intro i hi
  simp only [hostBus, BitVec.getLsbD_extractLsb', hostWord_getLsbD, hi, decide_true, Bool.true_and]
  interval_cases i <;> rfl

theorem hostAddr7_hostWord : hostAddr7 (hostWord op bus a r d) = a := by
  apply BitVec.eq_of_getLsbD_eq
  intro i hi
  simp only [hostAddr7, BitVec.getLsbD_extractLsb', hostWord_getLsbD, hi, decide_true, Bool.true_and]
  interval_cases i <;> rfl

theorem hostReg_hostWord : hostReg (hostWord op bus a r d) = r := by
  apply BitVec.eq_of_getLsbD_eq
  intro i hi
  simp only [hostReg, BitVec.getLsbD_extractLsb', hostWord_getLsbD, hi, decide_true, Bool.true_and]
  interval_cases i <;> rfl

theorem hostData_hostWord : hostData (hostWord op bus a r d) = d := by
  apply BitVec.eq_of_getLsbD_eq
  intro i hi
  simp only [hostData, BitVec.getLsbD_extractLsb', hostWord_getLsbD, hi, decide_true, Bool.true_and]
  interval_cases i <;> rfl

theorem hostWord_z : (hostWord op bus a r d).getLsbD 23 = false := by
  rw [hostWord_getLsbD]; rfl

/-- A word with only `op` and `bus` set has 0 in bits 23:0. -/
theorem hostWord_low24 : (hostWord op bus 0 0 0).extractLsb' 0 24 = 0 := by
  apply BitVec.eq_of_getLsbD_eq
  intro i hi
  simp only [BitVec.getLsbD_extractLsb', hostWord_getLsbD, hi, decide_true, Bool.true_and]
  interval_cases i <;> rfl

end

theorem wordTop_configureWord (a n : Byte) (e : EndMode) (m : SsMode) : wordTop (configureWord a n e m) = 1 := by
  apply BitVec.eq_of_getLsbD_eq
  intro i hi
  simp only [wordTop, BitVec.getLsbD_extractLsb', configureWord_getLsbD, hi, decide_true, Bool.true_and]
  interval_cases i <;> rfl

theorem configureWord_addr (a n : Byte) (e : EndMode) (m : SsMode) :
    (configureWord a n e m).extractLsb' 16 8 = a := by
  apply BitVec.eq_of_getLsbD_eq
  intro i hi
  simp only [BitVec.getLsbD_extractLsb', configureWord_getLsbD, hi, decide_true, Bool.true_and]
  interval_cases i <;> rfl

theorem configureWord_nbytes (a n : Byte) (e : EndMode) (m : SsMode) :
    (configureWord a n e m).extractLsb' 8 8 = n := by
  apply BitVec.eq_of_getLsbD_eq
  intro i hi
  simp only [BitVec.getLsbD_extractLsb', configureWord_getLsbD, hi, decide_true, Bool.true_and]
  interval_cases i <;> rfl

theorem configureWord_low8 (a n : Byte) (e : EndMode) (m : SsMode) :
    (configureWord a n e m).extractLsb' 0 8 = 0 := by
  apply BitVec.eq_of_getLsbD_eq
  intro i hi
  simp only [BitVec.getLsbD_extractLsb', configureWord_getLsbD, hi, decide_true, Bool.true_and]
  interval_cases i <;> rfl

theorem configureWord_bit25 (a n : Byte) (e : EndMode) (m : SsMode) :
    (configureWord a n e m).getLsbD 25 = false := by
  rw [configureWord_getLsbD]; rfl

theorem configureWord_endMode (a n : Byte) (e : EndMode) (m : SsMode) :
    EndMode.ofBit ((configureWord a n e m).getLsbD 24) = e := by
  rw [configureWord_getLsbD]; cases e <;> rfl

theorem configureWord_ssMode (a n : Byte) (e : EndMode) (m : SsMode) :
    SsMode.ofCode ((configureWord a n e m).extractLsb' 26 2) = m := by
  have h : (configureWord a n e m).extractLsb' 26 2 = m.code := by
    apply BitVec.eq_of_getLsbD_eq
    intro i hi
    simp only [BitVec.getLsbD_extractLsb', configureWord_getLsbD, hi, decide_true, Bool.true_and]
    interval_cases i <;> rfl
  rw [h]; cases m <;> rfl

theorem wordTop_sendWord (v : Byte) : wordTop (sendWord v) = 2 := by
  apply BitVec.eq_of_getLsbD_eq
  intro i hi
  simp only [wordTop, BitVec.getLsbD_extractLsb', sendWord_getLsbD, hi, decide_true, Bool.true_and]
  interval_cases i <;> rfl

theorem sendWord_data (v : Byte) : (sendWord v).extractLsb' 0 8 = v := by
  apply BitVec.eq_of_getLsbD_eq
  intro i hi
  simp only [BitVec.getLsbD_extractLsb', sendWord_getLsbD, hi, decide_true, Bool.true_and]
  interval_cases i <;> rfl

theorem sendWord_middle (v : Byte) : (sendWord v).extractLsb' 8 20 = 0 := by
  apply BitVec.eq_of_getLsbD_eq
  intro i hi
  simp only [BitVec.getLsbD_extractLsb', sendWord_getLsbD, hi, decide_true, Bool.true_and]
  interval_cases i <;> rfl

end Sys2Proof
end

