-- ==== Sys2Proof/Laws/PerInstr.lean ====
section
/-! SUPPORT. Statements about every instruction, made per constructor: decoding what the encoder wrote gives the
instruction back. -/

namespace Sys2Proof.Laws.RoundTrip

/-- Decoding an encoded well-formed instruction gives it back. -/
def Statement (i : Instr) : Prop := i.wf = true → decode (encode i) = .ok i

theorem initBus (bus : BitVec 4) : Statement (.initBus bus) := by
  intro _
  simp only [encode, decode, decodeHost, wordTop_hostWord, hostBus_hostWord, hostWord_low24]
  rfl

theorem setOverclock (flag : Bool) : Statement (.setOverclock flag) := by
  intro _
  cases flag <;> rfl

theorem write (bus : BitVec 4) (addr7 : BitVec 7) (reg data : Byte) : Statement (.write bus addr7 reg data) := by
  intro _
  simp only [encode, decode, decodeHost, wordTop_hostWord, hostBus_hostWord, hostAddr7_hostWord, hostReg_hostWord,
    hostData_hostWord, hostWord_z]
  rfl

theorem read (bus : BitVec 4) (addr7 : BitVec 7) (reg len : Byte) (buf : Memory) :
    Statement (.read bus addr7 reg len buf) := by
  intro h
  have h' : buf.wf = true := h
  simp only [encode, decode, decodeHost, wordTop_hostWord, hostBus_hostWord, hostAddr7_hostWord, hostReg_hostWord,
    hostData_hostWord, hostWord_z, h']
  rfl

theorem getErrorCount : Statement .getErrorCount := fun _ => rfl

theorem stepIdle (d : Dir) : Statement (.stepIdle d) := fun _ => by cases d <;> rfl

theorem stepStopping (d : Dir) : Statement (.stepStopping d) := fun _ => by cases d <;> rfl

theorem stepStarting (d : Dir) : Statement (.stepStarting d) := fun _ => by cases d <;> rfl

theorem stepStartingWait (d : Dir) : Statement (.stepStartingWait d) := fun _ => by cases d <;> rfl

theorem stepReadAddr (d : Dir) : Statement (.stepReadAddr d) := fun _ => by cases d <;> rfl

theorem stepWriteAddr (d : Dir) : Statement (.stepWriteAddr d) := fun _ => by cases d <;> rfl

theorem stepAddrWait (d : Dir) : Statement (.stepAddrWait d) := fun _ => by cases d <;> rfl

theorem stepRegister (d : Dir) : Statement (.stepRegister d) := fun _ => by cases d <;> rfl

theorem stepRegisterWait (d : Dir) : Statement (.stepRegisterWait d) := fun _ => by cases d <;> rfl

theorem stepRestarting (d : Dir) : Statement (.stepRestarting d) := fun _ => by cases d <;> rfl

theorem stepTransferRead : Statement .stepTransferRead := fun _ => rfl

theorem stepTransferWrite : Statement .stepTransferWrite := fun _ => rfl

theorem stepNack (d : Dir) : Statement (.stepNack d) := fun _ => by cases d <;> rfl

theorem stepBusError (d : Dir) : Statement (.stepBusError d) := fun _ => by cases d <;> rfl

theorem configure (addr nbytes : Byte) (endMode : EndMode) (ssMode : SsMode) :
    Statement (.configure addr nbytes endMode ssMode) := by
  intro _
  simp only [encode, decode, decodeCommand, wordTop_configureWord, configureWord_addr, configureWord_nbytes,
    configureWord_low8, configureWord_bit25, configureWord_endMode, configureWord_ssMode]
  rfl

theorem send (v : Byte) : Statement (.send v) := by
  intro _
  simp only [encode, decode, decodeCommand, wordTop_sendWord, sendWord_data, sendWord_middle]
  rfl

theorem recv : Statement .recv := fun _ => rfl

theorem clear (f : BitVec 3) : Statement (.clear f) := fun _ => by revert f; decide

end Sys2Proof.Laws.RoundTrip
end

