-- ==== Sys2Proof/Laws/Recovery.lean ====
section
/-! SUPPORT. BusRecovery touches the trace and the environment's answers and nothing else (42_bus_recovery.md R147,
R149). -/

namespace Sys2Proof.Machine

/-- A stretch wait appends to the trace and takes answers; everything else stands. -/
theorem stretchWait_frame (b : BusId) (k : Nat) (s : State) :
    ∃ tr env, stretchWait b k s = { s with trace := s.trace ++ tr, env := env } := by
  induction k generalizing s with
  | zero => exact ⟨[], s.env, by simp [stretchWait]⟩
  | succ k ih =>
    rw [stretchWait]
    split
    · exact ⟨[.readSCL b (sclAnswer s)], s.env.afterScl, rfl⟩
    · obtain ⟨tr, env, h⟩ := ih (delay Config.pollUs (afterReadScl b s))
      exact ⟨[.readSCL b (sclAnswer s), .delay Config.pollUs] ++ tr, env, by
        rw [h]; simp [delay, afterReadScl, emit]⟩

theorem pulses_frame (b : BusId) (k n : Nat) (s : State) :
    ∃ tr env, pulses b k n s = { s with trace := s.trace ++ tr, env := env } := by
  induction n generalizing s with
  | zero => exact ⟨[], s.env, by simp [pulses]⟩
  | succ n ih =>
    rw [pulses]
    obtain ⟨tr, env, h⟩ := stretchWait_frame b k s
    obtain ⟨tr', env', h'⟩ := ih (pulse b (stretchWait b k s))
    refine ⟨tr ++ [.line b .scl .lo, .delay Config.delayUs, .line b .scl .hi, .delay Config.delayUs] ++ tr', env', ?_⟩
    rw [h', h]
    simp [pulse, delay, drive, emit]

/-- Unstick appends to the trace and takes answers; everything else stands. -/
theorem unstickWith_frame (k : Nat) (b : BusId) (s : State) :
    ∃ tr env, unstickWith k b s = { s with trace := s.trace ++ tr, env := env } := by
  obtain ⟨tr, env, h⟩ := pulses_frame b k Config.unstickPulses (unstickPrepare b s)
  exact ⟨_, env, by
    unfold unstickWith
    rw [h]
    simp only [manualStop, unstickPrepare, drive, delay, configOD, emit, List.append_assoc]
    rfl⟩

theorem unstick_frame (b : BusId) (s : State) :
    ∃ tr env, unstick b s = { s with trace := s.trace ++ tr, env := env } :=
  unstickWith_frame Config.stretchPolls b s

section
variable (b : BusId) (s : State)

@[simp] theorem unstick_ts : (unstick b s).ts = s.ts := by obtain ⟨_, _, h⟩ := unstick_frame b s; rw [h]

@[simp] theorem unstick_bus : (unstick b s).bus = s.bus := by obtain ⟨_, _, h⟩ := unstick_frame b s; rw [h]

@[simp] theorem unstick_overclock : (unstick b s).overclock = s.overclock := by
  obtain ⟨_, _, h⟩ := unstick_frame b s; rw [h]

@[simp] theorem unstick_errcnt : (unstick b s).errcnt = s.errcnt := by
  obtain ⟨_, _, h⟩ := unstick_frame b s; rw [h]

@[simp] theorem unstick_cur : (unstick b s).cur = s.cur := by obtain ⟨_, _, h⟩ := unstick_frame b s; rw [h]

@[simp] theorem unstick_inCall : (unstick b s).inCall = s.inCall := by
  obtain ⟨_, _, h⟩ := unstick_frame b s; rw [h]

@[simp] theorem unstick_inbox : (unstick b s).inbox = s.inbox := by
  obtain ⟨_, _, h⟩ := unstick_frame b s; rw [h]

@[simp] theorem unstick_returns : (unstick b s).returns = s.returns := by
  obtain ⟨_, _, h⟩ := unstick_frame b s; rw [h]

end

end Sys2Proof.Machine
end

