-- ==== Sys2Proof/Safety.lean ====
section
/-! DEFINITION. The terms the claims are stated in: the standing invariant of the machine, the kinds of instructions and
events, the drive loop as a whole, and the bound on a call. -/

namespace Sys2Proof.Machine

/-! ### The invariant (10_state.md R41, with what R21 to R28 say of each field) -/

/-- The timed states: StartingWait, AddrWait, RegisterWait, Transfer (41_protocol_state_machine.md R103). -/
def timedCode (c : BitVec 4) : Bool :=
  c == PState.startingWait.code || c == PState.addrWait.code || c == PState.registerWait.code
    || c == PState.transfer.code

/-- What holds of every `TS[b]`: a state code that is not reserved (R72), the countdown in its range (R22), bit 0 of the
address 0 (R23), the array canonical (20_memory.md R50). -/
structure TsOk (t : TransactionState) : Prop where
  legal : t.state.toNat ≤ 12
  countdown : t.timeout ≤ Config.tLong
  address : t.addrW.getLsbD 0 = false
  array : ∀ m, t.buf = some m → m.wf = true

/-- What holds of `TS[b]` while its call is in flight (R41). The outcome a finished call left stands until the Starting
step clears it (R105), so Starting is excepted (log entry 14). -/
structure CallOk (t : TransactionState) : Prop where
  room : ∃ m, t.buf = some m ∧ t.cursor.toNat + t.remaining.toNat ≤ m.length
  count : t.cursor.toNat + t.remaining.toNat ≤ Config.lenMax
  counting : timedCode t.state = true → 1 ≤ t.timeout
  data : t.state = PState.transfer.code ∨ t.state = PState.restarting.code → 1 ≤ t.remaining.toNat
  outcome : t.outcome = true →
    t.state = PState.starting.code ∨ (t.state = PState.stopping.code ∧ t.remaining = 0)

/-- `TS[b]` with no call in flight: Idle, and no array held (R28, R31). -/
def Quiet (t : TransactionState) : Prop := t.state = PState.idle.code ∧ t.buf = none

/-- The standing invariant: every `TS[b]` is in range; in a call its bus is initialized, in flight and in order, and the
other bus is quiet (R60, R205); out of a call both buses are quiet. -/
structure StandingInv (s : State) : Prop where
  buses : ∀ b, TsOk (s.ts.get b)
  inFlight : s.inCall = true →
    (s.bus.get s.cur).initialized = true ∧ (s.ts.get s.cur).state ≠ PState.idle.code ∧ CallOk (s.ts.get s.cur)
      ∧ ∀ b, b ≠ s.cur → Quiet (s.ts.get b)
  quiet : s.inCall = false → ∀ b, Quiet (s.ts.get b)

/-! ### Kinds -/

/-- The step rules of the protocol state machine (R104 to R117). -/
def isStepRule : Instr → Bool
  | .stepIdle _ | .stepStopping _ | .stepStarting _ | .stepStartingWait _ | .stepReadAddr _ | .stepWriteAddr _
  | .stepAddrWait _ | .stepRegister _ | .stepRegisterWait _ | .stepRestarting _ | .stepTransferRead
  | .stepTransferWrite | .stepNack _ | .stepBusError _ => true
  | .initBus _ | .setOverclock _ | .write _ _ _ _ | .read _ _ _ _ _ | .getErrorCount
  | .configure _ _ _ _ | .send _ | .recv | .clear _ => false

/-- The BusError step (R117). -/
def isBusError : Instr → Bool
  | .stepBusError _ => true
  | .initBus _ | .setOverclock _ | .write _ _ _ _ | .read _ _ _ _ _ | .getErrorCount
  | .stepIdle _ | .stepStopping _ | .stepStarting _ | .stepStartingWait _ | .stepReadAddr _ | .stepWriteAddr _
  | .stepAddrWait _ | .stepRegister _ | .stepRegisterWait _ | .stepRestarting _ | .stepTransferRead
  | .stepTransferWrite | .stepNack _ | .configure _ _ _ _ | .send _ | .recv | .clear _ => false

/-- The events only BusRecovery appends (42_bus_recovery.md R140). -/
def isRecoveryEvent : Event → Bool
  | .line _ _ _ | .configOD _ _ | .readSCL _ _ | .delay _ => true
  | .poll _ _ _ | .cmd _ _ | .recv _ _ | .errInc _ | .reinit _ _ | .ret _ _ => false

/-- What an event drives on the pins: the pin and the level of an `EvLine`. -/
def drivenBy : Event → Option (Line × Level)
  | .line _ pin lvl => some (pin, lvl)
  | .poll _ _ _ | .cmd _ _ | .recv _ _ | .configOD _ _ | .readSCL _ _ | .delay _ | .errInc _ | .reinit _ _
  | .ret _ _ => none

/-- The microseconds an event spends (60_exceptions.md R203). -/
def delayOf : Event → Nat
  | .delay us => us
  | .poll _ _ _ | .cmd _ _ | .recv _ _ | .line _ _ _ | .configOD _ _ | .readSCL _ _ | .errInc _ | .reinit _ _
  | .ret _ _ => 0

/-- An event with the counter value of `EvErrInc` left out: what two runs that differ in `ERRCNT` share. -/
def withoutCount : Event → Event
  | .errInc _ => .errInc 0
  | .poll b st S => .poll b st S
  | .cmd b c => .cmd b c
  | .recv b v => .recv b v
  | .line b pin lvl => .line b pin lvl
  | .configOD b pin => .configOD b pin
  | .readSCL b lvl => .readSCL b lvl
  | .delay us => .delay us
  | .reinit b p => .reinit b p
  | .ret b r => .ret b r

/-- A status sample in the trace (R40). -/
def isPoll : Event → Bool
  | .poll _ _ _ => true
  | .cmd _ _ | .recv _ _ | .line _ _ _ | .configOD _ _ | .readSCL _ _ | .delay _ | .errInc _ | .reinit _ _
  | .ret _ _ => false

/-- The poll `S` does not show the exit condition of the timed state `t` stands in, nor a NACK where it is tested
(41_protocol_state_machine.md R106, R109, R111, R113, R114). -/
def noExit (t : TransactionState) (S : BitVec 6) : Bool :=
  if t.state = PState.startingWait.code then statusBusy S
  else if t.state = PState.addrWait.code then !statusNack S && !statusTxReady S
  else if t.state = PState.registerWait.code then !statusNack S && !statusTc S
  else
    match t.dir with
    | .read => !statusRxReady S
    | .write => !statusTxReady S

/-- `TS[b]` after a poll without the exit condition (00_scope.md R14): one less on the countdown, and BusError when it
reaches 0. A countdown of 0, which no run reaches, counts as one of 1 (log entry 12). -/
def failedPoll (t : TransactionState) : TransactionState :=
  { t with
    timeout := t.timeout - 1, state := if t.timeout ≤ 1 then PState.busError.code else t.state }

/-- `TS[b]` after a byte was moved (R113, R114): cursor and remaining count on, the countdown at `T_LONG` again, and with
nothing left the outcome set and Stopping. -/
def movedByte (t : TransactionState) : TransactionState :=
  { t with
    cursor := t.cursor + 1, remaining := t.remaining - 1, timeout := Config.tLong,
    outcome := if t.remaining - 1 = 0 then true else t.outcome,
    state := if t.remaining - 1 = 0 then PState.stopping.code else t.state }

/-- The state after one poll of bus `b` and nothing else (00_scope.md R13). -/
def polled (b : BusId) (s : State) : State :=
  { s with
    trace := s.trace ++ [.poll b (s.ts.get b).state (statusAnswer s)]
    env := s.env.afterStatus }

/-- The states a step may go to (41_protocol_state_machine.md R118). -/
def successors : PState → List PState
  | .idle => [.idle]
  | .starting => [.startingWait]
  | .startingWait => [.readAddr, .writeAddr, .startingWait, .busError]
  | .readAddr => [.addrWait]
  | .writeAddr => [.addrWait]
  | .addrWait => [.nack, .register, .addrWait, .busError]
  | .register => [.registerWait]
  | .registerWait => [.nack, .stopping, .restarting, .registerWait, .busError]
  | .restarting => [.transfer]
  | .transfer => [.stopping, .transfer, .busError]
  | .nack => [.stopping]
  | .stopping => [.idle]
  | .busError => [.idle]

/-! ### A whole call -/

/-- The drive loop (43_transaction_api.md R166): at most `n` steps, ending when the call has returned. -/
def driveLoop : Nat → State → Host.Outcome State Fault Refusal
  | 0, s => .next s
  | n + 1, s =>
    if s.inCall then
      match step s with
      | .next t => driveLoop n t
      | .fault r => .fault r
      | .refused r => .refused r
    else .next s

/-- The most steps of a call of `len` bytes (41_protocol_state_machine.md R121). -/
def callBound (len : Nat) : Nat := 5 + (3 + len) * Config.tLong

end Sys2Proof.Machine
end

