-- ==== Sys2Proof/Certificates/Slice0/Obligations.lean ====
section
/-! DEFINITION. The statements about the machine, each from the spec's numbered rules. `s.cur` is the bus `b` of the
rules. Where a statement gives the next state as `s` with some fields changed, that is its frame too: every field not
named, every byte of the array and every other bus stays. -/

open Sys2Proof Sys2Proof.Machine

/-! ### Encodings -/

/-- 30_encoding.md: no bit of any encoding is dropped. -/
def Obligations.DecodeEncodeRoundTrip : Prop :=
  ∀ i : Instr, i.wf = true → decode (encode i) = .ok i

/-- R74 to R78: the host words by mask and match, and the example words of R76 and R77. -/
def Obligations.HostWordsDecodeByMaskAndMatch : Prop :=
  (∀ (w : Word) (buf : Memory),
    (decodeHost w buf = .ok (.initBus (w.extractLsb' 24 4)) ↔ w &&& 0xF0FFFFFF#32 = 0x00000000#32)
    ∧ (decodeHost w buf = .ok (.setOverclock (w.getLsbD 0)) ↔ w &&& 0xFFFFFFFE#32 = 0x10000000#32)
    ∧ (decodeHost w buf = .ok (.write (w.extractLsb' 24 4) (w.extractLsb' 16 7) (w.extractLsb' 8 8)
        (w.extractLsb' 0 8)) ↔ w &&& 0xF0800000#32 = 0x20000000#32)
    ∧ (buf.wf = true → (decodeHost w buf = .ok (.read (w.extractLsb' 24 4) (w.extractLsb' 16 7) (w.extractLsb' 8 8)
        (w.extractLsb' 0 8) buf) ↔ w &&& 0xF0800000#32 = 0x30000000#32))
    ∧ (decodeHost w buf = .ok .getErrorCount ↔ w &&& 0xFFFFFFFF#32 = 0x40000000#32))
  ∧ decodeHost 0x20687500#32 [] = .ok (.write 0 0x68 0x75 0x00)
  ∧ decodeHost 0x30687501#32 (memOf [0]) = .ok (.read 0 0x68 0x75 1 (memOf [0]))

/-- R79: words that spell no operation are refused by the step that fetches them (a refusal answers no state, so nothing
changed and no event was appended); a well-formed word with a bus of 2 or more is refused by value. -/
def Obligations.ReservedHostWordsAreRefused : Prop :=
  ∀ (s : State) (w : Word) (buf : Memory) (rest : List Request),
    s.inCall = false → s.inbox = .host w buf :: rest →
    (5 ≤ (w.extractLsb' 28 4).toNat ∨ (w.extractLsb' 28 4 = 0 ∧ w.extractLsb' 0 24 ≠ 0)
      ∨ (w.extractLsb' 28 4 = 1 ∧ w.extractLsb' 1 27 ≠ 0)
      ∨ ((w.extractLsb' 28 4 = 2 ∨ w.extractLsb' 28 4 = 3) ∧ w.getLsbD 23 = true)
      ∨ (w.extractLsb' 28 4 = 4 ∧ w.extractLsb' 0 28 ≠ 0) →
        ∃ x, decodeHost w buf = .error x ∧ step s = .refused (.undecodable x))
    ∧ (∀ i, decodeHost w buf = .ok i →
        (∃ n, i = .initBus n ∧ 2 ≤ n.toNat) ∨ (∃ n a r d, i = .write n a r d ∧ 2 ≤ n.toNat)
          ∨ (∃ n a r l m, i = .read n a r l m ∧ 2 ≤ n.toNat) →
        step s = .refused .busOutOfRange)

/-- R71, R91: the step key `dir ++ state` selects its row of the opcode table on all 26 keys with state code 0 to 12. -/
def Obligations.StepKeysSelectTheirRules : Prop :=
  (∀ (d : Dir) (p : PState), decode (.key (d.bit ++ p.code)) = .ok (stepOf p d))
  ∧ (∀ k : BitVec 5, (∃ i, decode (.key k) = .ok i) ↔ (k.extractLsb' 0 4).toNat ≤ 12)

/-- R72: no rule writes a reserved code, and a state that holds one has no step: the dispatch refuses, in a call and when
invoked. -/
def Obligations.ReservedStateCodesRefusedAndNeverWritten : Prop :=
  (∀ (s : State) (b : BusId) (rest : List Request),
    (s.bus.get b).initialized = true → 13 ≤ (s.ts.get b).state.toNat →
    (s.inCall = true ∧ s.cur = b) ∨ (s.inCall = false ∧ s.inbox = .invoke b :: rest) →
    step s = .refused (.undecodable .reservedStateCode))
  ∧ ∀ (s t : State), step s = .next t →
      ∀ b, (t.ts.get b).state = (s.ts.get b).state ∨ (t.ts.get b).state.toNat ≤ 12

/-- R85, R86, R88: the words of the commands the block issues, `A` the on-wire address and `N` the byte count. -/
def Obligations.CommandWordsOfTheBlock : Prop :=
  ∀ (A N v : Byte),
    (Command.configure A 1 .softEnd .startWrite).word = 0x14000100#32 ||| (A.setWidth 32 <<< 16)
    ∧ (Command.configure A 0 .autoEnd .stop).word = 0x1D000000#32 ||| (A.setWidth 32 <<< 16)
    ∧ (Command.configure A N .autoEnd .startRead).word
        = 0x19000000#32 ||| (A.setWidth 32 <<< 16) ||| (N.setWidth 32 <<< 8)
    ∧ (Command.configure A N .autoEnd .noStartStop).word
        = 0x11000000#32 ||| (A.setWidth 32 <<< 16) ||| (N.setWidth 32 <<< 8)
    ∧ (Command.send v).word = 0x20000000#32 ||| v.setWidth 32
    ∧ (Command.clear 4).word = 0x40000004#32 ∧ (Command.clear 5).word = 0x40000005#32

/-- R85 to R88: the command words by mask and match. -/
def Obligations.CommandWordsDecodeByMaskAndMatch : Prop :=
  ∀ w : Word,
    ((∃ a n e m, decodeCommand w = .ok (.configure a n e m)) ↔ w &&& 0xF20000FF#32 = 0x10000000#32)
    ∧ ((∃ v, decodeCommand w = .ok (.send v)) ↔ w &&& 0xFFFFFF00#32 = 0x20000000#32)
    ∧ (decodeCommand w = .ok .recv ↔ w &&& 0xFFFFFFFF#32 = 0x30000000#32)
    ∧ ((∃ f, decodeCommand w = .ok (.clear f)) ↔ w &&& 0xFFFFFFF8#32 = 0x40000000#32)

/-- Words of 95_test_vectors.md 2.1 and 41_protocol_state_machine.md read as they stand there. -/
def Obligations.SpecWordsDecode : Prop :=
  decode (.host 0x01000000 []) = .ok (.initBus 1)
  ∧ decode (.host 0x10000001 []) = .ok (.setOverclock true)
  ∧ decode (.host 0x207FFFFF []) = .ok (.write 0 0x7F 0xFF 0xFF)
  ∧ decode (.host 0x307F00FF []) = .ok (.read 0 0x7F 0x00 255 [])
  ∧ decode (.host 0x40000000 []) = .ok .getErrorCount
  ∧ decode (.key 0x1A) = .ok .stepTransferRead
  ∧ decode (.key 0x0A) = .ok .stepTransferWrite
  ∧ decode (.key 0x0D) = .error .reservedStateCode
  ∧ decode (.command 0x19FEFF00) = .ok (.configure 0xFE 255 .autoEnd .startRead)
  ∧ decode (.command 0x200000AB) = .ok (.send 0xAB)
  ∧ decode (.command 0x30000000) = .ok .recv
  ∧ decode (.command 0x40000004) = .ok (.clear 4)

/-- R80: the on-wire address is the 7-bit address shifted left by one, bit 0 zero. -/
def Obligations.OnWireAddressIsShifted : Prop :=
  (∀ a : BitVec 7,
    onWire a = (a.setWidth 8) <<< 1 ∧ (onWire a).extractLsb' 1 7 = a ∧ (onWire a).getLsbD 0 = false
      ∧ (onWire a).toNat = 2 * a.toNat)
  ∧ onWire 0x68 = 0xD0

/-! ### The machine's step -/

/-- What a step runs (R100, R166, R73) and what it adds around `exec`: in a call the rule of the key of its bus; else the
oldest request; with none the state stays. After the instruction the loop test of R166: a call whose bus is Idle returns.
The model's own choices in it: that requests stand in `inbox` (log entry 8), that the return is made in the same machine
step as the instruction that reaches Idle (log entry 9), that a step can be invoked out of a call (log entry 10), that a
command word can be presented by itself (log entry 11), and the step with nothing asked for (log entry 16). -/
def Obligations.StepRunsTheDecodedInstruction : Prop :=
  ∀ (s : State) (i : Instr),
    let t (b : BusId) := s.ts.get b
    ((s.inCall = true → (s.bus.get s.cur).initialized = true →
        decode (.key ((t s.cur).dir.bit ++ (t s.cur).state)) = .ok i → step s = settle (exec i s))
      ∧ (s.inCall = false →
          (∀ w buf rest, s.inbox = .host w buf :: rest → decode (.host w buf) = .ok i →
            step s = settle (exec i { s with inbox := rest }))
          ∧ (∀ b rest, s.inbox = .invoke b :: rest → (s.bus.get b).initialized = true →
              decode (.key ((t b).dir.bit ++ (t b).state)) = .ok i →
              step s = settle (exec i { s with inbox := rest, cur := b }))
          ∧ (∀ b w rest, s.inbox = .command b w :: rest → decode (.command w) = .ok i →
              step s = settle (exec i { s with inbox := rest, cur := b }))
          ∧ (s.inbox = [] → step s = .next s)))
    ∧ (∀ v : State, settle (.next v) =
        .next (if v.inCall = true ∧ (v.ts.get v.cur).state = PState.idle.code then
            { v with
              ts := v.ts.set v.cur { v.ts.get v.cur with buf := none }
              inCall := false
              returns := v.returns ++ [.call v.cur (v.ts.get v.cur).outcome (v.ts.get v.cur).buf]
              trace := v.trace ++ [.ret v.cur (v.ts.get v.cur).outcome] }
          else v))
    ∧ (∀ r, settle (.fault r) = .fault r) ∧ (∀ r, settle (.refused r) = .refused r)

/-- The machine runs a word of the opcode table that `State.withFetchWord` places, as the instruction
`decodeTableWord` reads. It runs in a state with no call of the drive loop in flight that is otherwise, for a host or
command word, the given one; for a step key the machine is moved to bus 0, that bus is initialized and made to stand at
the key, and nothing else differs. A statement about the model's own placing of a word (log entries 8 and 10), its reading
of a table word (log entry 11) and the array of zero bytes beside a READ word (log entry 18). -/
def Obligations.PlacedTableWordIsFetched : Prop :=
  ∀ (s : State) (nbits w : Nat) (i : Instr), decodeTableWord nbits w = some i →
    ∃ u : State, fetch (s.withFetchWord nbits w) = .run i u ∧ step (s.withFetchWord nbits w) = settle (exec i u)
      ∧ u.inCall = false ∧ u.inbox = s.inbox ∧ u.overclock = s.overclock ∧ u.errcnt = s.errcnt ∧ u.trace = s.trace
      ∧ u.env = s.env ∧ u.returns = s.returns ∧ u.ts.get .bus1 = s.ts.get .bus1 ∧ u.bus.get .bus1 = s.bus.get .bus1
      ∧ (nbits ≤ 8 → u.cur = .bus0 ∧ (u.bus.get .bus0).initialized = true
          ∧ decode (.key ((u.ts.get .bus0).dir.bit ++ (u.ts.get .bus0).state)) = .ok i)
      ∧ (8 < nbits → u = { s with inCall := false })

/-- R42, R220: the power-on values the spec gives. -/
def Obligations.PowerOnValues : Prop :=
  (∀ b, (State.reset.bus.get b).initialized = false ∧ (State.reset.ts.get b).buf = none)
  ∧ State.reset.overclock = false ∧ State.reset.errcnt = 0 ∧ State.reset.trace = []

/-! ### Host operations -/

/-- R164: INIT_BUS on an existing bus with no call in flight is `Reinit`, with no recovery; it may be repeated. Before it
what its terms stand for: the number 0 or 1 of the bus field is that bus (R73), and `OVERCLOCK` 0 selects Nominal, 1
HighSpeed (R34, R35). -/
def Obligations.InitBusReinitializes : Prop :=
  busOfNumber 0 = some .bus0 ∧ busOfNumber 1 = some .bus1
  ∧ profileOf false = .nominal ∧ profileOf true = .highSpeed
  ∧ ∀ (s : State) (n : BitVec 4) (b : BusId),
    busOfNumber n = some b → noCall s = true →
    exec (.initBus n) s = .next { s with
      bus := s.bus.set b { initialized := true, profile := profileOf s.overclock }
      trace := s.trace ++ [.reinit b (profileOf s.overclock)]
      ts := s.ts.set b { s.ts.get b with
        state := PState.idle.code, outcome := false, timeout := 0, addrW := 0, dir := .write, reg := 0,
        remaining := 0, cursor := 0 } }

/-- R165: SET_OVERCLOCK writes the flag and nothing else; no peripheral is touched, no profile changes. -/
def Obligations.SetOverclockWritesTheFlag : Prop :=
  ∀ (s : State) (flag : Bool), noCall s = true →
    exec (.setOverclock flag) s = .next { s with overclock := flag }

/-- R161 up to the drive loop: the descriptor WRITE seeds, one byte, state Starting; the loop is entered. That `exec`
answers at this point, with `cur` and `inCall` set and the loop left to the steps after it, is the model's choice (log
entry 9). -/
def Obligations.WriteSeedsTheCall : Prop :=
  ∀ (s : State) (n : BitVec 4) (a : BitVec 7) (r d : Byte) (b : BusId),
    busOfNumber n = some b → noCall s = true → (s.bus.get b).initialized = true →
    exec (.write n a r d) s = .next { s with
      cur := b, inCall := true
      ts := s.ts.set b { s.ts.get b with
        addrW := onWire a, dir := .write, reg := r, remaining := 1, cursor := 0, buf := some [(0, d)],
        state := PState.starting.code } }

/-- R162 up to the drive loop: the descriptor READ seeds, `len` bytes (0 is allowed) into the borrowed array. That `exec`
answers at this point, with `cur` and `inCall` set and the loop left to the steps after it, is the model's choice (log
entry 9). -/
def Obligations.ReadSeedsTheCall : Prop :=
  ∀ (s : State) (n : BitVec 4) (a : BitVec 7) (r len : Byte) (buf : Memory) (b : BusId),
    busOfNumber n = some b → noCall s = true → (s.bus.get b).initialized = true → len.toNat ≤ buf.length →
    exec (.read n a r len buf) s = .next { s with
      cur := b, inCall := true
      ts := s.ts.set b { s.ts.get b with
        addrW := onWire a, dir := .read, reg := r, remaining := len, cursor := 0, buf := some buf,
        state := PState.starting.code } }

/-- R163: GET_ERROR_COUNT hands back the counter, changes no state of the block and appends no event; no operation
clears or writes the counter. -/
def Obligations.ErrorCountIsReadOnly : Prop :=
  (∀ s : State, noCall s = true →
    exec .getErrorCount s = .next { s with returns := s.returns ++ [.errorCount s.errcnt] })
  ∧ ∀ (s t : State) (i : Instr),
      ((∃ n, i = .initBus n) ∨ (∃ f, i = .setOverclock f) ∨ (∃ n a r d, i = .write n a r d)
        ∨ (∃ n a r l m, i = .read n a r l m) ∨ i = .getErrorCount) →
      exec i s = .next t → t.errcnt = s.errcnt

/-- R160: the five checks; each failed one is a refusal, the first in the rule's order. A refusal answers no state. -/
def Obligations.FailedChecksAreRefused : Prop :=
  (∀ (s : State) (w : Word) (buf : Memory) (rest : List Request) (x : DecodeError),
    s.inCall = false → s.inbox = .host w buf :: rest → decodeHost w buf = .error x →
    step s = .refused (.undecodable x))
  ∧ ∀ (s : State) (n : BitVec 4) (a : BitVec 7) (r d : Byte) (buf : Memory) (flag : Bool),
    (2 ≤ n.toNat →
      exec (.initBus n) s = .refused .busOutOfRange ∧ exec (.write n a r d) s = .refused .busOutOfRange
        ∧ exec (.read n a r d buf) s = .refused .busOutOfRange)
    ∧ ((∃ b, (s.bus.get b).initialized = true ∧ (s.ts.get b).state ≠ PState.idle.code) →
        exec (.setOverclock flag) s = .refused .callInFlight ∧ exec .getErrorCount s = .refused .callInFlight
          ∧ (n.toNat < 2 →
            exec (.initBus n) s = .refused .callInFlight ∧ exec (.write n a r d) s = .refused .callInFlight
              ∧ exec (.read n a r d buf) s = .refused .callInFlight))
    ∧ ((∀ b, (s.bus.get b).initialized = false ∨ (s.ts.get b).state = PState.idle.code) →
        ∀ b, busOfNumber n = some b →
          ((s.bus.get b).initialized = false →
            exec (.write n a r d) s = .refused .busNotInitialized
              ∧ exec (.read n a r d buf) s = .refused .busNotInitialized)
          ∧ ((s.bus.get b).initialized = true → buf.length < d.toNat →
              exec (.read n a r d buf) s = .refused .bufferTooShort))

/-! ### The step rules -/

/-- R82: one bit of a status sample for each status query. -/
def Obligations.StatusBitsAreNumbered : Prop :=
  ∀ S : BitVec 6,
    statusBusy S = S.getLsbD 0 ∧ statusTxReady S = S.getLsbD 1 ∧ statusRxReady S = S.getLsbD 2
    ∧ statusTc S = S.getLsbD 3 ∧ statusNack S = S.getLsbD 4 ∧ statusStop S = S.getLsbD 5

/-- R100, R201: a step rule on a bus that is not initialized is refused. -/
def Obligations.StepNeedsInitializedBus : Prop :=
  ∀ (s : State) (i : Instr), isStepRule i = true → (s.bus.get s.cur).initialized = false →
    exec i s = .refused .busNotInitialized

/-- R104: Idle does nothing. -/
def Obligations.IdleStepDoesNothing : Prop :=
  decodeKey 0x00 = .ok (.stepIdle .write) ∧ decodeKey 0x10 = .ok (.stepIdle .read)
  ∧ ∀ (s : State) (d : Dir), (s.bus.get s.cur).initialized = true → exec (.stepIdle d) s = .next s

/-- R105: Starting clears the outcome, seeds the countdown, goes to StartingWait, and appends no event. -/
def Obligations.StartingClearsTheOutcome : Prop :=
  decodeKey 0x02 = .ok (.stepStarting .write) ∧ decodeKey 0x12 = .ok (.stepStarting .read)
  ∧ ∀ (s : State) (d : Dir), (s.bus.get s.cur).initialized = true →
    exec (.stepStarting d) s = .next { s with
      ts := s.ts.set s.cur { s.ts.get s.cur with
        outcome := false, timeout := Config.tLong, state := PState.startingWait.code } }

/-- R106: StartingWait polls once; bus-busy clear leads to the address phase of the direction, busy counts down. That a
timed state is entered with a countdown of at least 1, and `tick` only called so, is R14; StepKeepsInvariant keeps it. -/
def Obligations.StartingWaitAwaitsFreeBus : Prop :=
  decodeKey 0x03 = .ok (.stepStartingWait .write) ∧ decodeKey 0x13 = .ok (.stepStartingWait .read)
  ∧ ∀ (s : State) (d : Dir), (s.bus.get s.cur).initialized = true → 1 ≤ (s.ts.get s.cur).timeout →
    let t := s.ts.get s.cur
    let p := polled s.cur s
    exec (.stepStartingWait d) s = .next { p with
      ts := s.ts.set s.cur
        (if statusBusy (statusAnswer s) = false then
          { t with state := if t.dir = .read then PState.readAddr.code else PState.writeAddr.code }
        else failedPoll t) }

/-- R107, R108: ReadAddr and WriteAddr issue the same CONFIGURE, seed the countdown and go to AddrWait. -/
def Obligations.AddressStepsConfigureOneByte : Prop :=
  decodeKey 0x14 = .ok (.stepReadAddr .read) ∧ decodeKey 0x04 = .ok (.stepReadAddr .write)
  ∧ decodeKey 0x05 = .ok (.stepWriteAddr .write) ∧ decodeKey 0x15 = .ok (.stepWriteAddr .read)
  ∧ ∀ (s : State) (d : Dir) (i : Instr), i = .stepReadAddr d ∨ i = .stepWriteAddr d →
    (s.bus.get s.cur).initialized = true →
    let t := s.ts.get s.cur
    exec i s = .next { s with
      trace := s.trace ++ [.cmd s.cur (.configure t.addrW 1 .softEnd .startWrite)]
      ts := s.ts.set s.cur { t with timeout := Config.tLong, state := PState.addrWait.code } }

/-- R109: AddrWait polls once; NACK-received before transmit-ready before the countdown. -/
def Obligations.AddrWaitAwaitsAcknowledge : Prop :=
  decodeKey 0x06 = .ok (.stepAddrWait .write) ∧ decodeKey 0x16 = .ok (.stepAddrWait .read)
  ∧ ∀ (s : State) (d : Dir), (s.bus.get s.cur).initialized = true → 1 ≤ (s.ts.get s.cur).timeout →
    let t := s.ts.get s.cur
    let p := polled s.cur s
    exec (.stepAddrWait d) s = .next { p with
      ts := s.ts.set s.cur
        (if statusNack (statusAnswer s) = true then { t with state := PState.nack.code }
        else if statusTxReady (statusAnswer s) = true then { t with state := PState.register.code }
        else failedPoll t) }

/-- R110: Register sends the register byte, seeds the countdown and goes to RegisterWait. -/
def Obligations.RegisterSendsTheRegisterByte : Prop :=
  decodeKey 0x07 = .ok (.stepRegister .write) ∧ decodeKey 0x17 = .ok (.stepRegister .read)
  ∧ ∀ (s : State) (d : Dir), (s.bus.get s.cur).initialized = true →
    let t := s.ts.get s.cur
    exec (.stepRegister d) s = .next { s with
      trace := s.trace ++ [.cmd s.cur (.send t.reg)]
      ts := s.ts.set s.cur { t with timeout := Config.tLong, state := PState.registerWait.code } }

/-- R111: RegisterWait polls once; NACK before transfer-complete before the countdown; with nothing remaining the outcome
is set, the auto-ended stop issued, and Stopping follows, else Restarting. -/
def Obligations.RegisterWaitStopsOrGoesOn : Prop :=
  decodeKey 0x08 = .ok (.stepRegisterWait .write) ∧ decodeKey 0x18 = .ok (.stepRegisterWait .read)
  ∧ ∀ (s : State) (d : Dir), (s.bus.get s.cur).initialized = true → 1 ≤ (s.ts.get s.cur).timeout →
    let t := s.ts.get s.cur
    let p := polled s.cur s
    exec (.stepRegisterWait d) s = .next (
      if statusNack (statusAnswer s) = true then
        { p with ts := s.ts.set s.cur { t with state := PState.nack.code } }
      else if statusTc (statusAnswer s) = true then
        if t.remaining = 0 then
          { p with
            trace := p.trace ++ [.cmd s.cur (.configure t.addrW 0 .autoEnd .stop)]
            ts := s.ts.set s.cur { t with outcome := true, state := PState.stopping.code } }
        else { p with ts := s.ts.set s.cur { t with state := PState.restarting.code } }
      else { p with ts := s.ts.set s.cur (failedPoll t) })

/-- R112: Restarting configures the whole remaining count, for a read with a repeated START. -/
def Obligations.RestartingConfiguresTheData : Prop :=
  decodeKey 0x09 = .ok (.stepRestarting .write) ∧ decodeKey 0x19 = .ok (.stepRestarting .read)
  ∧ ∀ (s : State) (d : Dir), (s.bus.get s.cur).initialized = true →
    let t := s.ts.get s.cur
    exec (.stepRestarting d) s = .next { s with
      trace := s.trace ++ [.cmd s.cur (.configure t.addrW t.remaining .autoEnd
        (if t.dir = .read then .startRead else .noStartStop))]
      ts := s.ts.set s.cur { t with timeout := Config.tLong, state := PState.transfer.code } }

/-- R113: Transfer of a read, the cursor inside the array `m`, the counts as R41 has them in a call: on receive-ready one
byte is taken and stored at the cursor, every other byte of the array kept; otherwise the countdown. -/
def Obligations.TransferReadTakesOneByte : Prop :=
  decodeKey 0x1A = .ok .stepTransferRead
  ∧ ∀ (s : State) (m : Memory), (s.bus.get s.cur).initialized = true →
    (s.ts.get s.cur).buf = some m → m.wf = true → (s.ts.get s.cur).cursor.toNat < m.length →
    1 ≤ (s.ts.get s.cur).timeout → 1 ≤ (s.ts.get s.cur).remaining.toNat →
    (s.ts.get s.cur).cursor.toNat + (s.ts.get s.cur).remaining.toNat ≤ Config.lenMax →
    let t := s.ts.get s.cur
    let p := polled s.cur s
    let v := recvAnswer p
    ∃ m' : Memory, m'.wf = true ∧ m'.length = m.length
      ∧ memRead m' t.cursor.toNat = some v ∧ (∀ j, j ≠ t.cursor.toNat → memRead m' j = memRead m j)
      ∧ exec .stepTransferRead s = .next (
        if statusRxReady (statusAnswer s) = true then
          { p with
            trace := p.trace ++ [.recv s.cur v]
            env := p.env.afterRecv
            ts := s.ts.set s.cur (movedByte { t with buf := some m' }) }
        else { p with ts := s.ts.set s.cur (failedPoll t) })

/-- R114: Transfer of a write, the cursor inside the array `m`, the counts as R41 has them in a call: on transmit-ready the byte at the cursor is sent;
otherwise the countdown. -/
def Obligations.TransferWriteSendsOneByte : Prop :=
  decodeKey 0x0A = .ok .stepTransferWrite
  ∧ ∀ (s : State) (m : Memory) (v : Byte), (s.bus.get s.cur).initialized = true →
    (s.ts.get s.cur).buf = some m → memRead m (s.ts.get s.cur).cursor.toNat = some v →
    1 ≤ (s.ts.get s.cur).timeout → 1 ≤ (s.ts.get s.cur).remaining.toNat →
    (s.ts.get s.cur).cursor.toNat + (s.ts.get s.cur).remaining.toNat ≤ Config.lenMax →
    let t := s.ts.get s.cur
    let p := polled s.cur s
    exec .stepTransferWrite s = .next (
      if statusTxReady (statusAnswer s) = true then
        { p with
          trace := p.trace ++ [.cmd s.cur (.send v)]
          ts := s.ts.set s.cur (movedByte t) }
      else { p with ts := s.ts.set s.cur (failedPoll t) })

/-- R53: a buffer access outside the array has no step: on the ready flag Transfer is stuck, in either direction; a poll
without it counts down as always. -/
def Obligations.AccessOutsideTheArrayIsStuck : Prop :=
  ∀ s : State, (s.bus.get s.cur).initialized = true → 1 ≤ (s.ts.get s.cur).timeout →
    (∀ m, (s.ts.get s.cur).buf = some m → memRead m (s.ts.get s.cur).cursor.toNat = none) →
    exec .stepTransferRead s =
      (if statusRxReady (statusAnswer s) = true then .fault .bufferOutOfRange
        else .next { polled s.cur s with ts := s.ts.set s.cur (failedPoll (s.ts.get s.cur)) })
    ∧ exec .stepTransferWrite s =
      (if statusTxReady (statusAnswer s) = true then .fault .bufferOutOfRange
        else .next { polled s.cur s with ts := s.ts.set s.cur (failedPoll (s.ts.get s.cur)) })

/-- R115: Nack issues the auto-ended stop, then clears NACK-received, and goes to Stopping; nothing is counted and
nothing recovered. -/
def Obligations.NackStopsAndClears : Prop :=
  decodeKey 0x0B = .ok (.stepNack .write) ∧ decodeKey 0x1B = .ok (.stepNack .read)
  ∧ ∀ (s : State) (d : Dir), (s.bus.get s.cur).initialized = true →
    let t := s.ts.get s.cur
    exec (.stepNack d) s = .next { s with
      trace := s.trace ++ [.cmd s.cur (.configure t.addrW 0 .autoEnd .stop), .cmd s.cur (.clear 4)]
      ts := s.ts.set s.cur { t with state := PState.stopping.code } }

/-- R116: Stopping clears stop-detected and goes to Idle; the outcome stays, nothing is polled. -/
def Obligations.StoppingGoesIdle : Prop :=
  decodeKey 0x01 = .ok (.stepStopping .write) ∧ decodeKey 0x11 = .ok (.stepStopping .read)
  ∧ ∀ (s : State) (d : Dir), (s.bus.get s.cur).initialized = true →
    exec (.stepStopping d) s = .next { s with
      trace := s.trace ++ [.cmd s.cur (.clear 5)]
      ts := s.ts.set s.cur { s.ts.get s.cur with state := PState.idle.code } }

/-- R117, R170: BusError counts one error, wrapping at 16 bits, then runs Unstick, then Reinit, all in one step; `evs`
are the events of Unstick. -/
def Obligations.BusErrorCountsRecoversReinitializes : Prop :=
  decodeKey 0x0C = .ok (.stepBusError .write) ∧ decodeKey 0x1C = .ok (.stepBusError .read)
  ∧ ∀ (s : State) (d : Dir), (s.bus.get s.cur).initialized = true →
    let p := profileOf s.overclock
    let c : State := { s with errcnt := s.errcnt + 1, trace := s.trace ++ [.errInc (s.errcnt + 1)] }
    ∃ (evs : List Event) (env : Env),
      unstick s.cur c = { c with trace := c.trace ++ evs, env := env }
      ∧ (∀ e ∈ evs, isRecoveryEvent e = true)
      ∧ exec (.stepBusError d) s = .next { s with
          errcnt := s.errcnt + 1
          trace := s.trace ++ [.errInc (s.errcnt + 1)] ++ evs ++ [.reinit s.cur p]
          env := env
          bus := s.bus.set s.cur { initialized := true, profile := p }
          ts := s.ts.set s.cur { s.ts.get s.cur with
            state := PState.idle.code, outcome := false, timeout := 0, addrW := 0, dir := .write, reg := 0,
            remaining := 0, cursor := 0 } }

/-! ### Peripheral commands -/

/-- R13, R85 to R89: a command the block issues is issued and recorded, on the bus the machine runs on; RECV takes one
byte. (That a command word can be presented by itself is the model's own, log entry 11, and so is that the forms with a
count of their own take the count 0, log entry 22.) -/
def Obligations.IssuedCommandsAreRecorded : Prop :=
  ∀ (s : State) (a n v : Byte),
    exec (.configure a 1 .softEnd .startWrite) s
      = .next { s with trace := s.trace ++ [.cmd s.cur (.configure a 1 .softEnd .startWrite)] }
    ∧ exec (.configure a 0 .autoEnd .stop) s
      = .next { s with trace := s.trace ++ [.cmd s.cur (.configure a 0 .autoEnd .stop)] }
    ∧ exec (.configure a n .autoEnd .startRead) s
      = .next { s with trace := s.trace ++ [.cmd s.cur (.configure a n .autoEnd .startRead)] }
    ∧ exec (.configure a n .autoEnd .noStartStop) s
      = .next { s with trace := s.trace ++ [.cmd s.cur (.configure a n .autoEnd .noStartStop)] }
    ∧ exec (.send v) s = .next { s with trace := s.trace ++ [.cmd s.cur (.send v)] }
    ∧ exec .recv s = .next { s with
        trace := s.trace ++ [.recv s.cur (recvAnswer s)], env := s.env.afterRecv }
    ∧ exec (.clear 4) s = .next { s with trace := s.trace ++ [.cmd s.cur (.clear 4)] }
    ∧ exec (.clear 5) s = .next { s with trace := s.trace ++ [.cmd s.cur (.clear 5)] }

/-- R89 and item U18: a CONFIGURE of another form and a CLEAR of another flag are refused (on the model's own port, log
entry 11; the forms with a count of their own are taken with every count, log entry 22). -/
def Obligations.OtherCommandsAreRefused : Prop :=
  ∀ s : State,
    (∀ (a n : Byte) (e : EndMode) (m : SsMode),
      ¬ (n = 1 ∧ e = .softEnd ∧ m = .startWrite) → ¬ (n = 0 ∧ e = .autoEnd ∧ m = .stop) →
      ¬ (e = .autoEnd ∧ m = .startRead) → ¬ (e = .autoEnd ∧ m = .noStartStop) →
      exec (.configure a n e m) s = .refused .commandNeverIssued)
    ∧ ∀ f : BitVec 3, f ≠ 4 → f ≠ 5 → exec (.clear f) s = .refused .commandNeverIssued

/-- R85, R88, R89: whatever runs, the only commands appended to the trace are the four CONFIGURE forms, SEND, CLEAR of
NACK-received and CLEAR of stop-detected; the trace only grows. -/
def Obligations.OnlyListedCommandsAreIssued : Prop :=
  ∀ s t : State, step s = .next t →
    ∃ evs, t.trace = s.trace ++ evs ∧ ∀ b c, Event.cmd b c ∈ evs →
      (∃ A, c = .configure A 1 .softEnd .startWrite) ∨ (∃ A, c = .configure A 0 .autoEnd .stop)
      ∨ (∃ A N, c = .configure A N .autoEnd .startRead) ∨ (∃ A N, c = .configure A N .autoEnd .noStartStop)
      ∨ (∃ v, c = .send v) ∨ c = .clear 4 ∨ c = .clear 5

/-! ### Bus recovery -/

/-- R142, R144 to R146, R148: what Unstick drives on the lines is one fixed sequence, whatever SCL reads and whatever the
budget: both lines high, 9 pulses, the manual STOP; it ends with both lines high (R147). -/
def Obligations.UnstickDrivesAFixedSequence : Prop :=
  ∀ (k : Nat) (b : BusId) (s : State),
    ∃ evs, (unstickWith k b s).trace = s.trace ++ evs
      ∧ evs.filterMap drivenBy =
        [(.scl, .hi), (.sda, .hi)] ++ (List.replicate 9 [(Line.scl, Level.lo), (.scl, .hi)]).flatten
          ++ [(.scl, .lo), (.sda, .lo), (.scl, .hi), (.sda, .hi)]

/-- R149 with SCL high at the first read of every stretch wait, and V6: the trace of Unstick is the 56 events of the
rule's example, for every budget of at least one poll. -/
def Obligations.UnstickTraceWithSclHigh : Prop :=
  ∀ (k : Nat) (b : BusId) (s : State) (rest : List Level), s.env.scl = List.replicate 9 .hi ++ rest →
    (unstickWith (k + 1) b s).trace = s.trace
      ++ [.line b .scl .hi, .line b .sda .hi, .configOD b .scl, .configOD b .sda]
      ++ (List.replicate 9 [.readSCL b .hi, .line b .scl .lo, .delay Config.delayUs, .line b .scl .hi,
          .delay Config.delayUs]).flatten
      ++ [.line b .scl .lo, .delay Config.delayUs, .line b .sda .lo, .delay Config.delayUs, .line b .scl .hi,
          .delay Config.delayUs, .line b .sda .hi]
    ∧ (unstickWith (k + 1) b s).env.scl = rest

/-- R143, R150: with SCL low throughout, every stretch wait reads and delays `k` times and the pulse is forced. -/
def Obligations.UnstickTraceWithSclLow : Prop :=
  ∀ (k : Nat) (b : BusId) (s : State) (rest : List Level), s.env.scl = List.replicate (9 * k) .lo ++ rest →
    (unstickWith k b s).trace = s.trace
      ++ [.line b .scl .hi, .line b .sda .hi, .configOD b .scl, .configOD b .sda]
      ++ (List.replicate 9 ((List.replicate k [Event.readSCL b .lo, .delay Config.pollUs]).flatten
          ++ [.line b .scl .lo, .delay Config.delayUs, .line b .scl .hi, .delay Config.delayUs])).flatten
      ++ [.line b .scl .lo, .delay Config.delayUs, .line b .sda .lo, .delay Config.delayUs, .line b .scl .hi,
          .delay Config.delayUs, .line b .sda .hi]

/-- R150: the bounds on the events of Unstick and on the time spent in delays. -/
def Obligations.UnstickIsBounded : Prop :=
  ∀ (k : Nat) (b : BusId) (s : State),
    ∃ evs, (unstickWith k b s).trace = s.trace ++ evs
      ∧ (if k = 0 then 47 else 56) ≤ evs.length ∧ evs.length ≤ 47 + 18 * k
      ∧ (evs.map delayOf).sum ≤ 9 * (k * Config.pollUs + 2 * Config.delayUs) + 3 * Config.delayUs

/-- R141: only the BusError step runs BusRecovery: no other instruction appends an event of the pins or a delay. -/
def Obligations.RecoveryOnlyInBusError : Prop :=
  ∀ (i : Instr) (s t : State), exec i s = .next t → isBusError i = false →
    ∃ evs, t.trace = s.trace ++ evs ∧ ∀ e ∈ evs, isRecoveryEvent e = false

/-! ### Whole-machine rules -/

/-- The invariant holds at power-on. -/
def Obligations.InvariantAtReset : Prop := StandingInv State.reset

/-- R41, R22, R23, R72: every step keeps the invariant (the exception for Starting is log entry 14). -/
def Obligations.StepKeepsInvariant : Prop :=
  ∀ s t : State, StandingInv s → step s = .next t → StandingInv t

/-- R51, R52, R53, R121: under the invariant no step is stuck, and while a call is in flight every step answers a next
state. -/
def Obligations.CallsNeverGetStuck : Prop :=
  ∀ s : State, StandingInv s → (∀ r, step s ≠ .fault r) ∧ (s.inCall = true → ∃ t, step s = .next t)

/-- R41, R26: while the call goes on, cursor and remaining count add up to the count it was started with. -/
def Obligations.CursorPlusRemainingIsKept : Prop :=
  ∀ s t : State, StandingInv s → s.inCall = true → step s = .next t → t.inCall = true →
    t.cur = s.cur
    ∧ (t.ts.get s.cur).cursor.toNat + (t.ts.get s.cur).remaining.toNat
      = (s.ts.get s.cur).cursor.toNat + (s.ts.get s.cur).remaining.toNat

/-- R118: every step of the state machine goes from its state to one the transition table lists. -/
def Obligations.TransitionsFollowTheTable : Prop :=
  ∀ (s t : State) (p : PState), (s.bus.get s.cur).initialized = true → (s.ts.get s.cur).state = p.code →
    exec (stepOf p (s.ts.get s.cur).dir) s = .next t → ∃ q ∈ successors p, (t.ts.get s.cur).state = q.code

/-- R171, R36: `ERRCNT` is incremented by one, modulo 2^16, by the BusError step and by nothing else. -/
def Obligations.ErrorCounterCountsBusErrorsOnly : Prop :=
  ∀ (i : Instr) (s t : State), exec i s = .next t →
    t.errcnt = if isBusError i = true then s.errcnt + 1 else s.errcnt

/-- R37, R205: a step on bus `b` writes only `TS[b]`, `BUS[b]` and `ERRCNT` (and the trace, and takes answers). -/
def Obligations.StepsTouchOneBusOnly : Prop :=
  ∀ (i : Instr) (s t : State), isStepRule i = true → exec i s = .next t →
    (∀ b, b ≠ s.cur → t.ts.get b = s.ts.get b ∧ t.bus.get b = s.bus.get b)
    ∧ t.overclock = s.overclock ∧ t.cur = s.cur ∧ t.inCall = s.inCall ∧ t.inbox = s.inbox ∧ t.returns = s.returns

/-- R51, R52: the bytes of a call's array change only by a Transfer of a read, and there only the byte at the cursor;
every other step rule and every command leaves every byte of every array as it reads. -/
def Obligations.OnlyTransferReadWritesTheArray : Prop :=
  ∀ (i : Instr) (s t : State),
    (isStepRule i = true ∨ (∃ a n e m, i = .configure a n e m) ∨ (∃ v, i = .send v) ∨ i = .recv
      ∨ (∃ f, i = .clear f)) → exec i s = .next t →
    ∀ (b : BusId) (j : Nat),
      ¬ (i = .stepTransferRead ∧ b = s.cur ∧ j = (s.ts.get s.cur).cursor.toNat) →
      bufRead (t.ts.get b).buf j = bufRead (s.ts.get b).buf j

/-- R33, R34, R227: a bus once initialized stays so, and its attributes change only to (initialized, the profile
`OVERCLOCK` selects), by an INIT_BUS of that bus or a BusError on it. -/
def Obligations.ProfileIsLatchedAtReinit : Prop :=
  ∀ (i : Instr) (s t : State), exec i s = .next t → ∀ b,
    t.bus.get b = s.bus.get b
    ∨ (t.bus.get b = { initialized := true, profile := profileOf s.overclock }
        ∧ ((∃ n, i = .initBus n ∧ busOfNumber n = some b) ∨ (isBusError i = true ∧ b = s.cur)))

/-- R101, R103: an instruction polls at most once, and only the rules of the timed states poll. -/
def Obligations.AtMostOnePollPerStep : Prop :=
  ∀ (i : Instr) (s t : State), exec i s = .next t →
    ∃ evs, t.trace = s.trace ++ evs ∧ evs.countP isPoll ≤ 1
      ∧ (evs.countP isPoll = 1 ↔
          (∃ d, i = .stepStartingWait d) ∨ (∃ d, i = .stepAddrWait d) ∨ (∃ d, i = .stepRegisterWait d)
            ∨ i = .stepTransferRead ∨ i = .stepTransferWrite)

/-- R103, R191: a timed state that has `n` polls left fails after exactly `n` polls without its exit condition: after
fewer it still waits, after `n` it is BusError with the countdown 0. -/
def Obligations.TimeoutAfterExactlyTheCountdown : Prop :=
  ∀ (s : State) (k : Nat) (samples rest : List (BitVec 6)),
    StandingInv s → s.inCall = true → timedCode (s.ts.get s.cur).state = true →
    samples.length = k → s.env.status = samples ++ rest → (∀ S ∈ samples, noExit (s.ts.get s.cur) S = true) →
    (k < (s.ts.get s.cur).timeout →
      ∃ t, driveLoop k s = .next t
        ∧ t.ts.get s.cur = { s.ts.get s.cur with timeout := (s.ts.get s.cur).timeout - k })
    ∧ (k = (s.ts.get s.cur).timeout →
      ∃ t, driveLoop k s = .next t
        ∧ t.ts.get s.cur = { s.ts.get s.cur with timeout := 0, state := PState.busError.code }
        ∧ t.errcnt = s.errcnt)

/-- R168, R169: the step that ends a call hands back the array and the outcome, which is 1 exactly when the call came
through Stopping with the outcome set, and 0 through BusError; the block keeps no reference. (That the return belongs to
the machine step that reaches Idle is the model's choice, log entry 9.) -/
def Obligations.ReturnValueIsTheOutcome : Prop :=
  ∀ s t : State, StandingInv s → s.inCall = true → step s = .next t → t.inCall = false →
    let u := s.ts.get s.cur
    ∃ r : Bool,
      t.returns = s.returns ++ [.call s.cur r u.buf] ∧ (t.ts.get s.cur).buf = none
      ∧ (t.ts.get s.cur).state = PState.idle.code ∧ t.trace.getLast? = some (.ret s.cur r)
      ∧ ((u.state = PState.stopping.code ∧ r = u.outcome ∧ t.errcnt = s.errcnt)
        ∨ (u.state = PState.busError.code ∧ r = false ∧ t.errcnt = s.errcnt + 1))

/-- R121, R231: a call of `len` bytes started at Starting has returned after at most `5 + (3 + len) * T_LONG` steps,
whatever the environment answers; it counts at most one error (R171). -/
def Obligations.EveryCallReturns : Prop :=
  ∀ s : State, StandingInv s → s.inCall = true → (s.ts.get s.cur).state = PState.starting.code →
    ∃ t, driveLoop (callBound (s.ts.get s.cur).remaining.toNat) s = .next t ∧ t.inCall = false
      ∧ (∃ r m, t.returns = s.returns ++ [.call s.cur r (some m)])
      ∧ (t.errcnt = s.errcnt ∨ t.errcnt = s.errcnt + 1) ∧ t.inbox = s.inbox

/-- R120 and V1: a write to a slave that answers at once: 9 steps, the commands in order, the outcome 1. -/
def Obligations.FaultFreeWrite : Prop :=
  ∀ (s : State) (n : BitVec 4) (b : BusId) (a : BitVec 7) (r d : Byte) (rest : List (BitVec 6)),
    StandingInv s → s.inCall = false → busOfNumber n = some b → (s.bus.get b).initialized = true →
    s.env.status = 0x00#6 :: 0x02#6 :: 0x08#6 :: 0x02#6 :: rest →
    ∃ t u, exec (.write n a r d) s = .next t ∧ driveLoop 9 t = .next u
      ∧ u.inCall = false ∧ u.errcnt = s.errcnt ∧ u.returns = s.returns ++ [.call b true (some [(0, d)])]
      ∧ u.ts.get b = {
          state := PState.idle.code, timeout := Config.tLong, addrW := onWire a, dir := .write, reg := r,
          remaining := 0, cursor := 1, buf := none, outcome := true }
      ∧ u.trace = s.trace ++ [
          .poll b PState.startingWait.code 0x00, .cmd b (.configure (onWire a) 1 .softEnd .startWrite),
          .poll b PState.addrWait.code 0x02, .cmd b (.send r),
          .poll b PState.registerWait.code 0x08, .cmd b (.configure (onWire a) 1 .autoEnd .noStartStop),
          .poll b PState.transfer.code 0x02, .cmd b (.send d), .cmd b (.clear 5), .ret b true]

/-- R119, R54, R162: a read of `len` bytes, `len` at least 1, from a slave that answers at once: `8 + len` steps, the
received bytes in order in the first `len` bytes of the array, the others unchanged, the outcome 1. -/
def Obligations.FaultFreeReadDeliversBytesInOrder : Prop :=
  ∀ (s : State) (n : BitVec 4) (b : BusId) (a : BitVec 7) (r len : Byte) (buf : Memory) (vs more : List Byte)
    (rest : List (BitVec 6)),
    StandingInv s → s.inCall = false → busOfNumber n = some b → (s.bus.get b).initialized = true →
    buf.wf = true → len.toNat ≤ buf.length → vs.length = len.toNat → 1 ≤ len.toNat →
    s.env.status = 0x00#6 :: 0x02#6 :: 0x08#6 :: (List.replicate len.toNat 0x04#6 ++ rest) →
    s.env.recv = vs ++ more →
    ∃ t u m, exec (.read n a r len buf) s = .next t ∧ driveLoop (8 + len.toNat) t = .next u
      ∧ u.inCall = false ∧ u.errcnt = s.errcnt ∧ u.returns = s.returns ++ [.call b true (some m)]
      ∧ m.wf = true ∧ m.length = buf.length
      ∧ (∀ j v, vs[j]? = some v → memRead m j = some v)
      ∧ (∀ j, len.toNat ≤ j → memRead m j = memRead buf j)
      ∧ u.trace = s.trace ++ [
          .poll b PState.startingWait.code 0x00, .cmd b (.configure (onWire a) 1 .softEnd .startWrite),
          .poll b PState.addrWait.code 0x02, .cmd b (.send r),
          .poll b PState.registerWait.code 0x08, .cmd b (.configure (onWire a) len .autoEnd .startRead)]
        ++ vs.flatMap (fun v => [.poll b PState.transfer.code 0x04, .recv b v])
        ++ [.cmd b (.clear 5), .ret b true]

/-- R121, R193 and V3: a NACK of the address, in either direction: 6 steps, the stop and the clear, the outcome 0, the
error counter and the pins untouched, the array as it was. -/
def Obligations.AddressNackPath : Prop :=
  ∀ (s : State) (rest : List (BitVec 6)),
    StandingInv s → s.inCall = true → (s.ts.get s.cur).state = PState.starting.code →
    s.env.status = 0x00#6 :: 0x10#6 :: rest →
    let b := s.cur
    let A := (s.ts.get b).addrW
    ∃ t, driveLoop 6 s = .next t ∧ t.inCall = false ∧ t.errcnt = s.errcnt ∧ t.bus = s.bus
      ∧ t.returns = s.returns ++ [.call b false (s.ts.get b).buf]
      ∧ t.trace = s.trace ++ [
          .poll b PState.startingWait.code 0x00, .cmd b (.configure A 1 .softEnd .startWrite),
          .poll b PState.addrWait.code 0x10, .cmd b (.configure A 0 .autoEnd .stop), .cmd b (.clear 4),
          .cmd b (.clear 5), .ret b false]

/-- R121, R194 and V4: a bus that stays busy: `T_LONG + 2` steps, one error counted, one recovery (`evs`, the events of
the pins and delays: the line sequence of one Unstick, no more and no less, R149) and one reinitialization with the profile
selected then, the outcome 0, the bus Idle and usable again. -/
def Obligations.BusyBusPath : Prop :=
  ∀ (s : State) (rest : List (BitVec 6)),
    StandingInv s → s.inCall = true → (s.ts.get s.cur).state = PState.starting.code →
    s.env.status = List.replicate Config.tLong 0x01#6 ++ rest →
    let b := s.cur
    ∃ t evs, driveLoop (Config.tLong + 2) s = .next t ∧ t.inCall = false ∧ t.errcnt = s.errcnt + 1
      ∧ t.bus.get b = { initialized := true, profile := profileOf s.overclock }
      ∧ (t.ts.get b).state = PState.idle.code
      ∧ t.returns = s.returns ++ [.call b false (s.ts.get b).buf]
      ∧ (∀ e ∈ evs, isRecoveryEvent e = true)
      ∧ evs.filterMap drivenBy =
        [(.scl, .hi), (.sda, .hi)] ++ (List.replicate 9 [(Line.scl, Level.lo), (.scl, .hi)]).flatten
          ++ [(.scl, .lo), (.sda, .lo), (.scl, .hi), (.sda, .hi)]
      ∧ (∃ c : State, (unstick b c).trace = c.trace ++ evs)
      ∧ t.trace = s.trace ++ List.replicate Config.tLong (.poll b PState.startingWait.code 0x01)
          ++ [.errInc (s.errcnt + 1)] ++ evs ++ [.reinit b (profileOf s.overclock), .ret b false]

/-- R122, R171, R173, R60: in a call, what a step does on its bus depends on that bus, `OVERCLOCK` and the environment's
answers only: not on the other bus, `ERRCNT`, the requests waiting, the trace or what was returned before. The value in
`EvErrInc` is the one place where the counter shows (log entry 15). -/
def Obligations.StepInCallDependsOnItsBusOnly : Prop :=
  ∀ s s' t : State,
    s.inCall = true → s'.inCall = true → s'.cur = s.cur → s'.ts.get s.cur = s.ts.get s.cur →
    s'.bus.get s.cur = s.bus.get s.cur → s'.overclock = s.overclock → s'.env = s.env → step s = .next t →
    ∃ t' evs evs' rs, step s' = .next t'
      ∧ t.trace = s.trace ++ evs ∧ t'.trace = s'.trace ++ evs' ∧ evs.map withoutCount = evs'.map withoutCount
      ∧ t.returns = s.returns ++ rs ∧ t'.returns = s'.returns ++ rs
      ∧ t'.inCall = t.inCall ∧ t'.cur = t.cur ∧ t'.ts.get s.cur = t.ts.get s.cur
      ∧ t'.bus.get s.cur = t.bus.get s.cur ∧ t'.overclock = t.overclock ∧ t'.env = t.env
      ∧ t'.errcnt - s'.errcnt = t.errcnt - s.errcnt
end

