-- ==== Sys2Proof/Tests/Slice0.lean ====
section
/-! SUPPORT. Tests against the spec's own worked examples (95_test_vectors.md, 30_encoding.md, 42_bus_recovery.md), the
well-formedness smoke test, and a witness for every statement that has hypotheses. Expected values come from the spec. -/

namespace Sys2Proof.Machine

/-! ### Helpers: small states -/

/-- The state an outcome answers, if it is a next state. -/
def nextOf (o : Host.Outcome State Fault Refusal) : Option State :=
  match o with
  | .next t => some t
  | .fault _ => none
  | .refused _ => none

/-- The refusal an outcome is, if it is one. -/
def refusalOf (o : Host.Outcome State Fault Refusal) : Option Refusal :=
  match o with
  | .next _ => none
  | .fault _ => none
  | .refused r => some r

/-- `TS[0]` of a one-byte transfer at `addrW = 0xD0`, register 0x75, in state `p`. -/
def oneByte (p : PState) (d : Dir) (timeout : Nat) : TransactionState :=
  { state := p.code, timeout := timeout, addrW := 0xD0, dir := d, reg := 0x75, remaining := 1, cursor := 0,
    buf := some (memOf [0x9C]), outcome := false }

/-- Bus 0 initialized and holding `t`, a call in flight on it, the status answers `status`, the byte 0x71 and the SCL
levels `scl` lined up. -/
def inCallWith (t : TransactionState) (status : List (BitVec 6)) (scl : List Level) : State :=
  { State.reset with
    ts := { bus0 := t, bus1 := .powerOn }
    bus := { bus0 := { initialized := true, profile := .nominal }, bus1 := .powerOn }
    env := { status := status, recv := [0x71], scl := scl, drawn := 0 }
    inCall := true }

/-- The same with a one-byte transfer in state `p` and one poll left. -/
def callState (p : PState) (d : Dir) (status : List (BitVec 6)) : State :=
  inCallWith (oneByte p d 1) status []

/-- Bus 0 initialized and Idle, no call in flight. -/
def idleState (status : List (BitVec 6)) : State :=
  { State.reset with
    bus := { bus0 := { initialized := true, profile := .nominal }, bus1 := .powerOn }
    env := { status := status, recv := [0x71], scl := [], drawn := 0 } }

/-- State, countdown, remaining count, cursor and outcome of bus 0 after an outcome. -/
def view (o : Host.Outcome State Fault Refusal) : Option (BitVec 4 × Nat × Byte × Byte × Bool) :=
  (nextOf o).map fun t =>
    ((t.ts.get .bus0).state, (t.ts.get .bus0).timeout, (t.ts.get .bus0).remaining, (t.ts.get .bus0).cursor,
      (t.ts.get .bus0).outcome)

/-- State and outcome of bus 0, and the trace, after an outcome. -/
def traceView (o : Host.Outcome State Fault Refusal) : Option (BitVec 4 × Bool × List Event) :=
  (nextOf o).map fun t => ((t.ts.get .bus0).state, (t.ts.get .bus0).outcome, t.trace)

theorem powerOn_tsOk : TsOk .powerOn where
  legal := by decide
  countdown := Nat.zero_le _
  address := rfl
  array := fun _ hm => by cases hm

theorem callState_inv (p : PState) (d : Dir) (status : List (BitVec 6)) (h : p ≠ .idle) :
    StandingInv (callState p d status) where
  buses := fun b => by
    cases b
    · exact ⟨by change p.code.toNat ≤ 12; cases p <;> decide, Nat.le_add_left 1 _,
        by change (0xD0 : Byte).getLsbD 0 = false; decide, fun m hm => by cases hm; rfl⟩
    · exact powerOn_tsOk
  inFlight := fun _ => by
    refine ⟨rfl, ?_, ⟨⟨memOf [0x9C], rfl, Nat.le_refl 1⟩, ?_, fun _ => Nat.le_refl 1, fun _ => Nat.le_refl 1,
      fun ho => by cases ho⟩, fun b hb => ?_⟩
    · change p.code ≠ PState.idle.code
      revert h
      cases p <;> decide
    · change 0 + 1 ≤ 255
      decide
    · cases b
      · exact absurd rfl hb
      · exact ⟨rfl, rfl⟩
  quiet := fun hc => by cases hc

theorem idleState_inv (status : List (BitVec 6)) : StandingInv (idleState status) where
  buses := fun b => by cases b <;> exact powerOn_tsOk
  inFlight := fun hc => by cases hc
  quiet := fun _ b => by cases b <;> exact ⟨rfl, rfl⟩

/-! ### Well-formedness smoke test -/

/-- What stands beside a READ word is an array from index 0: this is none. -/
theorem test_wf_refuses_gap : (Instr.read 0 0x68 0x75 1 [(1, 0x00)]).wf = false := by decide

/-- Indices rise one by one: this array skips one. -/
theorem test_wf_refuses_skip : (Instr.read 0 0x68 0x75 1 [(0, 0x00), (2, 0x00)]).wf = false := by decide

theorem test_wf_accepts_array : (Instr.read 0 0x68 0x75 1 [(0, 0x00), (1, 0x00)]).wf = true := by decide

/-- The decoder refuses what is no array by name. -/
theorem test_decode_refuses_non_array : decode (.host 0x30687501 [(1, 0x00)]) = .error .notAnArray := by decide

/-! ### Decoding: a word for every constructor, from 30_encoding.md and 95_test_vectors.md section 2.1 -/

theorem test_decode_initBus : decode (.host 0x01000000 []) = .ok (.initBus 1) := by decide
theorem test_decode_initBus_low_bits : decode (.host 0x00000001 []) = .error .unusedFieldNotZero := by decide
theorem test_decode_setOverclock : decode (.host 0x10000001 []) = .ok (.setOverclock true) := by decide
theorem test_decode_setOverclock_bit1 : decode (.host 0x10000002 []) = .error .unusedFieldNotZero := by decide
theorem test_decode_write : decode (.host 0x20687500 []) = .ok (.write 0 0x68 0x75 0x00) := by decide
theorem test_decode_write_z : decode (.host 0x20E87500 []) = .error .addressBitSet := by decide
theorem test_decode_read : decode (.host 0x31680E02 [(0, 0), (1, 0)]) = .ok (.read 1 0x68 0x0E 2 [(0, 0), (1, 0)]) := by
  decide
theorem test_decode_getErrorCount : decode (.host 0x40000000 []) = .ok .getErrorCount := by decide
theorem test_decode_getErrorCount_low_bit : decode (.host 0x40000001 []) = .error .unusedFieldNotZero := by decide
theorem test_decode_op5 : decode (.host 0x50000000 []) = .error .reservedOp := by decide
theorem test_decode_op15 : decode (.host 0xF0000000 []) = .error .reservedOp := by decide
theorem test_decode_stepIdle : decode (.key 0b10000) = .ok (.stepIdle .read) := by decide
theorem test_decode_stepStopping : decode (.key 0b00001) = .ok (.stepStopping .write) := by decide
theorem test_decode_stepStarting : decode (.key 0b10010) = .ok (.stepStarting .read) := by decide
theorem test_decode_stepStartingWait : decode (.key 0b00011) = .ok (.stepStartingWait .write) := by decide
theorem test_decode_stepReadAddr : decode (.key 0b10100) = .ok (.stepReadAddr .read) := by decide
theorem test_decode_stepWriteAddr : decode (.key 0b00101) = .ok (.stepWriteAddr .write) := by decide
theorem test_decode_stepAddrWait : decode (.key 0b10110) = .ok (.stepAddrWait .read) := by decide
theorem test_decode_stepRegister : decode (.key 0b00111) = .ok (.stepRegister .write) := by decide
theorem test_decode_stepRegisterWait : decode (.key 0b11000) = .ok (.stepRegisterWait .read) := by decide
theorem test_decode_stepRestarting : decode (.key 0b01001) = .ok (.stepRestarting .write) := by decide
theorem test_decode_stepTransferRead : decode (.key 0b11010) = .ok .stepTransferRead := by decide
theorem test_decode_stepTransferWrite : decode (.key 0b01010) = .ok .stepTransferWrite := by decide
theorem test_decode_stepNack : decode (.key 0b11011) = .ok (.stepNack .read) := by decide
theorem test_decode_stepBusError : decode (.key 0b01100) = .ok (.stepBusError .write) := by decide
theorem test_decode_key_reserved : decode (.key 0b11111) = .error .reservedStateCode := by decide
theorem test_decode_configure : decode (.command 0x1DA00000) = .ok (.configure 0xA0 0 .autoEnd .stop) := by decide
theorem test_decode_configure_write : decode (.command 0x113C0300) = .ok (.configure 0x3C 3 .autoEnd .noStartStop) := by
  decide
theorem test_decode_send : decode (.command 0x200000AB) = .ok (.send 0xAB) := by decide
theorem test_decode_recv : decode (.command 0x30000000) = .ok .recv := by decide
theorem test_decode_clear : decode (.command 0x40000005) = .ok (.clear 5) := by decide
theorem test_decode_command_kind0 : decode (.command 0x00000000) = .error .reservedKind := by decide
theorem test_decode_command_bit25 : decode (.command 0x16D00100) = .error .commandBitNotZero := by decide

/-- The encoder writes the example words of R76, R77, R107 and R112. -/
theorem test_encode_write : encode (.write 0 0x68 0x75 0x00) = .host 0x20687500 [] := by decide
theorem test_encode_configure : encode (.configure 0xD0 1 .autoEnd .startRead) = .command 0x19D00100 := by decide

/-- V7: address 0x68 is 0xD0 on the wire. -/
theorem test_onWire : onWire 0x68 = 0xD0 := by decide

/-! ### The opcode table's words -/

theorem test_table_key : decodeTableWord 8 0x1A = some .stepTransferRead := by decide
theorem test_table_read : decodeTableWord 32 0x30687501 = some (.read 0 0x68 0x75 1 [(0, 0)]) := by decide
theorem test_table_command : decodeTableWord 32 0x14D00100 = some (.configure 0xD0 1 .softEnd .startWrite) := by decide

/-- A placed key runs as the first instruction after power-on: Stopping goes to Idle (R116). -/
theorem test_placed_stopping :
    traceView (step (State.reset.withFetchWord 8 0x01)) = some (0, false, [.cmd .bus0 (.clear 5)]) := by decide

/-- A placed INIT_BUS of bus 1 runs (R164): the boot trace is the one event (BR5). -/
theorem test_placed_initBus :
    (nextOf (step (State.reset.withFetchWord 32 0x01000000))).map (fun t => (t.trace, (t.bus.get .bus1).initialized))
      = some ([.reinit .bus1 .nominal], true) := by decide

/-! ### Host operations (95_test_vectors.md 2.5) -/

/-- API9: after setOverclock the next initialization takes the high-speed profile; bus 0 keeps its own. -/
theorem test_initBus_overclock :
    (nextOf (exec (.initBus 1) { idleState [] with overclock := true })).map
        (fun t => (t.trace, (t.bus.get .bus0).profile))
      = some ([.reinit .bus1 .highSpeed], .nominal) := by decide

/-- R165: no event, the profile of a bus already initialized stays. -/
theorem test_setOverclock :
    (nextOf (exec (.setOverclock true) (idleState []))).map (fun t => (t.overclock, t.trace, (t.bus.get .bus0).profile))
      = some (true, [], .nominal) := by decide

/-- R161: the seeded descriptor. -/
theorem test_write_seeds :
    (nextOf (exec (.write 0 0x68 0x75 0x5A) (idleState []))).map (fun t =>
        ((t.ts.get .bus0).addrW, (t.ts.get .bus0).remaining, (t.ts.get .bus0).buf, (t.ts.get .bus0).state))
      = some (0xD0, 1, some [(0, 0x5A)], 2) := by rfl

/-- API1: a bus not initialized. -/
theorem test_write_uninitialized :
    refusalOf (exec (.write 1 0x68 0x75 0x00) (idleState [])) = some .busNotInitialized := by decide

/-- R162: a read of no bytes is allowed with an empty array. -/
theorem test_read_zero_length :
    (nextOf (exec (.read 0 0x68 0x75 0 []) (idleState []))).map (fun t => ((t.ts.get .bus0).dir, (t.ts.get .bus0).buf))
      = some (.read, some []) := by decide

/-- API3: the array is shorter than `len`. -/
theorem test_read_short_buffer :
    refusalOf (exec (.read 0 0x68 0x75 2 [(0, 0)]) (idleState [])) = some .bufferTooShort := by decide

/-- API8: the counter as it stands, no event. -/
theorem test_getErrorCount :
    (nextOf (exec .getErrorCount { idleState [] with errcnt := 0xFFFF })).map (fun t => (t.returns, t.trace))
      = some ([.errorCount 0xFFFF], []) := by decide

/-- API11: any operation while a call is in flight. -/
theorem test_getErrorCount_in_call :
    refusalOf (exec .getErrorCount (callState .addrWait .write [])) = some .callInFlight := by decide

/-! ### Single steps (95_test_vectors.md 2.2) -/

/-- S1. -/
theorem test_S1_idle : exec (.stepIdle .write) (idleState []) = .next (idleState []) := by rfl

/-- S2: the outcome left from an earlier call is cleared. -/
theorem test_S2_starting :
    traceView (exec (.stepStarting .write) (inCallWith { oneByte .starting .write 0 with outcome := true } [] []))
      = some (3, false, []) := by decide

/-- S4: busy clear, every other bit set. -/
theorem test_S4_startingWait :
    view (exec (.stepStartingWait .write) (inCallWith (oneByte .startingWait .write 4) [0x3E] []))
      = some (5, 4, 1, 0, false) := by decide

/-- S6: the last poll busy. -/
theorem test_S6_startingWait_timeout :
    view (exec (.stepStartingWait .read) (callState .startingWait .read [0x01])) = some (12, 0, 1, 0, false) := by decide

/-- S7. -/
theorem test_S7_readAddr :
    traceView (exec (.stepReadAddr .read) (callState .readAddr .read []))
      = some (6, false, [.cmd .bus0 (.configure 0xD0 1 .softEnd .startWrite)]) := by decide

/-- S8: the command word of the event. -/
theorem test_S8_writeAddr : (Command.configure 0xFE 1 .softEnd .startWrite).word = 0x14FE0100 := by decide

theorem test_writeAddr :
    traceView (exec (.stepWriteAddr .write) (callState .writeAddr .write []))
      = some (6, false, [.cmd .bus0 (.configure 0xD0 1 .softEnd .startWrite)]) := by decide

/-- S10: NACK wins over transmit-ready. -/
theorem test_S10_addrWait :
    view (exec (.stepAddrWait .write) (callState .addrWait .write [0x12])) = some (11, 1, 1, 0, false) := by decide

/-- S11: transfer-complete is not this state's flag. -/
theorem test_S11_addrWait :
    view (exec (.stepAddrWait .write) (inCallWith (oneByte .addrWait .write 2) [0x08] [])) = some (6, 1, 1, 0, false) := by
  decide

/-- R110's example. -/
theorem test_register :
    traceView (exec (.stepRegister .read) (callState .register .read []))
      = some (8, false, [.cmd .bus0 (.send 0x75)]) := by decide

/-- S14: nothing remaining. -/
theorem test_S14_registerWait :
    traceView (exec (.stepRegisterWait .read)
        (inCallWith { oneByte .registerWait .read 1 with remaining := 0 } [0x08] []))
      = some (1, true, [.poll .bus0 8 0x08, .cmd .bus0 (.configure 0xD0 0 .autoEnd .stop)]) := by decide

/-- S16: NACK wins over transfer-complete. -/
theorem test_S16_registerWait :
    view (exec (.stepRegisterWait .read) (callState .registerWait .read [0x18])) = some (11, 1, 1, 0, false) := by decide

/-- S18. -/
theorem test_S18_restarting_read :
    traceView (exec (.stepRestarting .read) (inCallWith { oneByte .restarting .read 1 with remaining := 3 } [] []))
      = some (10, false, [.cmd .bus0 (.configure 0xD0 3 .autoEnd .startRead)]) := by decide

/-- S19. -/
theorem test_S19_restarting_write :
    traceView (exec (.stepRestarting .write) (callState .restarting .write []))
      = some (10, false, [.cmd .bus0 (.configure 0xD0 1 .autoEnd .noStartStop)]) := by decide

/-- V2, step 8: the byte is stored at the cursor, the last one sets the outcome. -/
theorem test_V2_transferRead :
    (nextOf (exec .stepTransferRead (callState .transfer .read [0x04]))).map (fun t =>
        ((t.ts.get .bus0).state, (t.ts.get .bus0).buf, (t.ts.get .bus0).cursor, (t.ts.get .bus0).outcome, t.trace))
      = some (1, some [(0, 0x71)], 1, true, [.poll .bus0 10 0x04, .recv .bus0 0x71]) := by rfl

/-- S22: transmit-ready and NACK are not this state's flags; no byte is drawn. -/
theorem test_S22_transferRead :
    (nextOf (exec .stepTransferRead (inCallWith (oneByte .transfer .read 2) [0x12] []))).map (fun t =>
        ((t.ts.get .bus0).state, (t.ts.get .bus0).timeout, (t.ts.get .bus0).buf, t.env.recv))
      = some (10, 1, some [(0, 0x9C)], [0x71]) := by rfl

/-- S24. -/
theorem test_S24_transferWrite :
    traceView (exec .stepTransferWrite (callState .transfer .write [0x02]))
      = some (1, true, [.poll .bus0 10 0x02, .cmd .bus0 (.send 0x9C)]) := by decide

/-- S25: a NACK of a data byte only counts down. -/
theorem test_S25_transferWrite :
    view (exec .stepTransferWrite (inCallWith (oneByte .transfer .write 3) [0x10] [])) = some (10, 2, 1, 0, false) := by
  decide

/-- S27: the stop before the clear. -/
theorem test_S27_nack :
    traceView (exec (.stepNack .write) (inCallWith { oneByte .nack .write 1 with addrW := 0xA0 } [] []))
      = some (1, false, [.cmd .bus0 (.configure 0xA0 0 .autoEnd .stop), .cmd .bus0 (.clear 4)]) := by decide

/-- S29: the outcome stays. -/
theorem test_S29_stopping :
    traceView (exec (.stepStopping .read) (inCallWith { oneByte .stopping .read 1 with outcome := true } [] []))
      = some (0, true, [.cmd .bus0 (.clear 5)]) := by decide

/-- S31: the counter wraps before the recovery. -/
theorem test_S31_countError :
    (countError { callState .busError .write [] with errcnt := 0xFFFF }).trace = [.errInc 0] := by decide

/-- S32: the profile is taken from `OVERCLOCK` at the bus error. -/
theorem test_S32_reinit :
    (leaveFault .busError .bus0 { callState .busError .write [] with overclock := true }).trace
      = [.reinit .bus0 .highSpeed] := by decide

/-- S33: a reserved state code. -/
theorem test_S33_reserved_state :
    refusalOf (step (inCallWith { oneByte .idle .write 1 with state := 13 } [] [])) = some (.undecodable .reservedStateCode) := by
  decide

/-- S34: a bus that is not initialized. -/
theorem test_S34_uninitialized : refusalOf (exec (.stepRegister .read) State.reset) = some .busNotInitialized := by decide

/-- The last step of V1: the call returns 1 and hands its array back. -/
theorem test_V1_return :
    (nextOf (step (inCallWith { oneByte .stopping .write 1 with outcome := true } [] []))).map (fun t =>
        (t.inCall, t.returns, (t.ts.get .bus0).buf, t.trace))
      = some (false, [.call .bus0 true (some [(0, 0x9C)])], none, [.cmd .bus0 (.clear 5), .ret .bus0 true]) := by rfl

/-! ### Commands -/

theorem test_configure_other_form :
    refusalOf (exec (.configure 0xD0 2 .softEnd .startWrite) (idleState [])) = some .commandNeverIssued := by decide

theorem test_recv :
    (nextOf (exec .recv (idleState []))).map (fun t => (t.trace, t.env.recv)) = some ([.recv .bus0 0x71], []) := by decide

theorem test_clear_other_flag : refusalOf (exec (.clear 0) (idleState [])) = some .commandNeverIssued := by decide

theorem test_send :
    (nextOf (exec (.send 0xAB) (idleState []))).map (fun t => t.trace) = some [.cmd .bus0 (.send 0xAB)] := by decide

/-! ### Bus recovery -/

/-- BR1: with a budget of 3, SCL reads Lo, Lo, Hi. -/
theorem test_BR1_stretchWait :
    (stretchWait .bus0 3 (inCallWith (oneByte .busError .write 0) [] [.lo, .lo, .hi])).trace
      = [.readSCL .bus0 .lo, .delay Config.pollUs, .readSCL .bus0 .lo, .delay Config.pollUs, .readSCL .bus0 .hi] := by rfl

/-- V6, budget 0: 47 events, SCL not read. -/
theorem test_V6_no_budget : (unstickWith 0 .bus0 (callState .busError .write [])).trace.length = 47 := by rfl

/-! ### Witnesses: states and operands that meet the hypotheses of each statement -/

theorem witness_DecodeEncodeRoundTrip : (Instr.read 0 0x68 0x75 1 [(0, 0)]).wf = true := by decide

theorem witness_HostWordsDecodeByMaskAndMatch : (memOf [0]).wf = true := by decide

/-- Each reserved class at a boundary, and a word refused by value (API2). -/
theorem witness_ReservedHostWordsAreRefused :
    (({ idleState [] with inbox := [.host 0x50000000 []] } : State).inCall = false)
    ∧ 5 ≤ ((0x50000000 : Word).extractLsb' 28 4).toNat
    ∧ ((0x00000001 : Word).extractLsb' 28 4 = 0 ∧ (0x00000001 : Word).extractLsb' 0 24 ≠ 0)
    ∧ ((0x10000002 : Word).extractLsb' 28 4 = 1 ∧ (0x10000002 : Word).extractLsb' 1 27 ≠ 0)
    ∧ ((0x20E87500 : Word).extractLsb' 28 4 = 2 ∧ (0x20E87500 : Word).getLsbD 23 = true)
    ∧ ((0x40000001 : Word).extractLsb' 28 4 = 4 ∧ (0x40000001 : Word).extractLsb' 0 28 ≠ 0)
    ∧ decodeHost 0x22687500 [] = .ok (.write 2 0x68 0x75 0x00) := by decide

theorem witness_ReservedStateCodesRefusedAndNeverWritten :
    let s := inCallWith { oneByte .idle .write 1 with state := 13 } [] []
    let q := { s with inCall := false, inbox := [.invoke .bus0] }
    ((s.bus.get .bus0).initialized = true ∧ 13 ≤ (s.ts.get .bus0).state.toNat ∧ s.inCall = true ∧ s.cur = .bus0)
    ∧ (q.inCall = false ∧ q.inbox = [.invoke .bus0])
    ∧ step State.reset = .next State.reset := ⟨by decide, by decide, rfl⟩

theorem witness_StepRunsTheDecodedInstruction :
    let s := callState .nack .read []
    let q := { idleState [] with inbox := [.host 0x40000000 []] }
    (s.inCall = true ∧ (s.bus.get s.cur).initialized = true
      ∧ decode (.key ((s.ts.get s.cur).dir.bit ++ (s.ts.get s.cur).state)) = .ok (.stepNack .read))
    ∧ (q.inCall = false ∧ decode (.host 0x40000000 []) = .ok .getErrorCount)
    ∧ (((idleState []).bus.get .bus0).initialized = true
      ∧ decode (.key (((idleState []).ts.get .bus0).dir.bit ++ ((idleState []).ts.get .bus0).state)) = .ok (.stepIdle .write))
    ∧ decode (.command 0x30000000) = .ok .recv ∧ (idleState []).inbox = [] := by decide

theorem witness_PlacedTableWordIsFetched :
    decodeTableWord 8 0x0C = some (.stepBusError .write) ∧ decodeTableWord 32 0x20687500 = some (.write 0 0x68 0x75 0)
    ∧ decodeTableWord 32 0x1DD00000 = some (.configure 0xD0 0 .autoEnd .stop) := by decide

/-- INIT_BUS, SET_OVERCLOCK, WRITE, READ and GET_ERROR_COUNT: a free, initialized bus and an array just long enough. -/
theorem witness_host_operations :
    busOfNumber 0 = some .bus0 ∧ busOfNumber 1 = some .bus1 ∧ noCall (idleState []) = true ∧ noCall State.reset = true
    ∧ ((idleState []).bus.get .bus0).initialized = true
    ∧ (2 : Byte).toNat ≤ (memOf [0, 0]).length ∧ (0 : Byte).toNat ≤ ([] : Memory).length
    ∧ exec .getErrorCount State.reset = .next { State.reset with returns := [.errorCount 0] } :=
  ⟨rfl, rfl, rfl, rfl, rfl, by decide, by decide, rfl⟩

/-- One witness for each check of R160, with its boundary values: bus 2 and bus 15. -/
theorem witness_FailedChecksAreRefused :
    decodeHost 0x50000000 [] = .error .reservedOp
    ∧ 2 ≤ (2 : BitVec 4).toNat ∧ 2 ≤ (15 : BitVec 4).toNat
    ∧ (((callState .addrWait .write []).bus.get .bus0).initialized = true
      ∧ ((callState .addrWait .write []).ts.get .bus0).state ≠ PState.idle.code)
    ∧ (∀ b, ((idleState []).bus.get b).initialized = false ∨ ((idleState []).ts.get b).state = PState.idle.code)
    ∧ (busOfNumber 1 = some .bus1 ∧ ((idleState []).bus.get .bus1).initialized = false)
    ∧ (busOfNumber 0 = some .bus0 ∧ ((idleState []).bus.get .bus0).initialized = true
      ∧ (memOf [0]).length < (2 : Byte).toNat) :=
  ⟨by decide, by decide, by decide, by decide, fun b => by cases b <;> decide, by decide, by decide⟩

theorem witness_StepNeedsInitializedBus :
    isStepRule (.stepNack .read) = true ∧ (State.reset.bus.get State.reset.cur).initialized = false := by decide

/-- The hypotheses of every step rule, on both directions and every poll: the bus the machine runs on is initialized, and
the countdown at its lowest value. -/
theorem witness_step_rules (p : PState) (d : Dir) (S : List (BitVec 6)) :
    ((callState p d S).bus.get (callState p d S).cur).initialized = true
      ∧ 1 ≤ ((callState p d S).ts.get (callState p d S).cur).timeout := ⟨rfl, Nat.le_refl 1⟩

theorem witness_TransferReadTakesOneByte :
    let s := callState .transfer .read [0x04]
    (s.ts.get s.cur).buf = some (memOf [0x9C]) ∧ (memOf [0x9C]).wf = true
      ∧ (s.ts.get s.cur).cursor.toNat < (memOf [0x9C]).length ∧ 1 ≤ (s.ts.get s.cur).timeout
      ∧ 1 ≤ (s.ts.get s.cur).remaining.toNat
      ∧ (s.ts.get s.cur).cursor.toNat + (s.ts.get s.cur).remaining.toNat ≤ Config.lenMax
      ∧ statusRxReady (statusAnswer s) = true := by decide

theorem witness_TransferWriteSendsOneByte :
    let s := callState .transfer .write [0x02]
    (s.ts.get s.cur).buf = some (memOf [0x9C]) ∧ memRead (memOf [0x9C]) (s.ts.get s.cur).cursor.toNat = some 0x9C
      ∧ 1 ≤ (s.ts.get s.cur).timeout ∧ 1 ≤ (s.ts.get s.cur).remaining.toNat
      ∧ (s.ts.get s.cur).cursor.toNat + (s.ts.get s.cur).remaining.toNat ≤ Config.lenMax
      ∧ statusTxReady (statusAnswer s) = true := by decide

/-- The first index outside the array, on every poll, and no array at all. -/
theorem witness_AccessOutsideTheArrayIsStuck :
    (∀ S, let s := inCallWith { oneByte .transfer .read 1 with cursor := 1 } [S] []
      (s.bus.get s.cur).initialized = true ∧ 1 ≤ (s.ts.get s.cur).timeout
        ∧ ∀ m, (s.ts.get s.cur).buf = some m → memRead m (s.ts.get s.cur).cursor.toNat = none)
    ∧ (let s := inCallWith { oneByte .transfer .read 1 with buf := none } [] []
      (s.bus.get s.cur).initialized = true ∧ 1 ≤ (s.ts.get s.cur).timeout
        ∧ ∀ m, (s.ts.get s.cur).buf = some m → memRead m (s.ts.get s.cur).cursor.toNat = none) :=
  ⟨fun _ => ⟨rfl, Nat.le_refl 1, fun m h => by cases h; rfl⟩, rfl, Nat.le_refl 1, fun m h => by cases h⟩

/-- The forms of CONFIGURE and the flags of CLEAR that are refused, next to those that are issued. -/
theorem witness_OtherCommandsAreRefused :
    (¬ ((2 : Byte) = 1 ∧ EndMode.softEnd = .softEnd ∧ SsMode.startWrite = .startWrite)
      ∧ ¬ ((2 : Byte) = 0 ∧ EndMode.softEnd = .autoEnd ∧ SsMode.startWrite = .stop)
      ∧ ¬ (EndMode.softEnd = .autoEnd ∧ SsMode.startWrite = .startRead)
      ∧ ¬ (EndMode.softEnd = .autoEnd ∧ SsMode.startWrite = .noStartStop))
    ∧ (3 : BitVec 3) ≠ 4 ∧ (3 : BitVec 3) ≠ 5 := by decide

/-- A step that answers a next state, in a call and out of one. -/
theorem witness_steps_answer :
    (∃ t, step State.reset = .next t) ∧ (∃ t, step (callState .nack .write []) = .next t)
    ∧ (∃ t, exec (.stepNack .write) (callState .nack .write []) = .next t)
    ∧ (∃ t, exec (.stepBusError .write) (callState .busError .write []) = .next t)
    ∧ (∃ t, exec (.stepTransferRead) (callState .transfer .read [0x04]) = .next t)
    ∧ isBusError (.stepNack .write) = false ∧ isStepRule (.stepNack .write) = true :=
  ⟨⟨_, rfl⟩, ⟨_, rfl⟩, ⟨_, rfl⟩, ⟨_, rfl⟩, ⟨_, rfl⟩, rfl, rfl⟩

theorem witness_UnstickTraceWithSclHigh :
    (inCallWith (oneByte .busError .write 0) [] (List.replicate 9 .hi)).env.scl = List.replicate 9 .hi ++ [] := by decide

theorem witness_UnstickTraceWithSclLow :
    (inCallWith (oneByte .busError .write 0) [] (List.replicate (9 * 2) .lo)).env.scl = List.replicate (9 * 2) .lo ++ [] := by
  decide

theorem witness_StepKeepsInvariant :
    StandingInv (callState .transfer .read [0x04]) ∧ (callState .transfer .read [0x04]).inCall = true
    ∧ ∃ t, step (callState .transfer .read [0x04]) = .next t :=
  ⟨callState_inv _ _ _ (by decide), rfl, ⟨_, rfl⟩⟩

theorem witness_CallsNeverGetStuck : StandingInv (callState .stopping .write []) ∧ (callState .stopping .write []).inCall = true :=
  ⟨callState_inv _ _ _ (by decide), rfl⟩

theorem witness_CursorPlusRemainingIsKept :
    StandingInv (callState .transfer .read [0x04]) ∧ (callState .transfer .read [0x04]).inCall = true
    ∧ ∃ t, step (callState .transfer .read [0x04]) = .next t ∧ t.inCall = true :=
  ⟨callState_inv _ _ _ (by decide), rfl, ⟨_, rfl, rfl⟩⟩

theorem witness_TransitionsFollowTheTable :
    let s := callState .transfer .read [0x04]
    (s.bus.get s.cur).initialized = true ∧ (s.ts.get s.cur).state = PState.transfer.code
      ∧ ∃ t, exec (stepOf .transfer (s.ts.get s.cur).dir) s = .next t := ⟨rfl, rfl, ⟨_, rfl⟩⟩

theorem witness_OnlyTransferReadWritesTheArray :
    ∃ t, exec (.stepStopping .read) (callState .stopping .read []) = .next t
      ∧ ¬ (Instr.stepStopping .read = .stepTransferRead ∧ BusId.bus0 = .bus0 ∧ 0 = 0) :=
  ⟨_, rfl, fun h => by cases h.1⟩

/-- The countdown 1 met with one failing poll (the second clause), and not yet met with none (the first). -/
theorem witness_TimeoutAfterExactlyTheCountdown :
    let s := callState .addrWait .write [0x08]
    StandingInv s ∧ s.inCall = true ∧ timedCode (s.ts.get s.cur).state = true
      ∧ s.env.status = [0x08] ++ [] ∧ (∀ S ∈ [0x08#6], noExit (s.ts.get s.cur) S = true)
      ∧ [0x08#6].length = (s.ts.get s.cur).timeout ∧ ([] : List (BitVec 6)).length < (s.ts.get s.cur).timeout :=
  ⟨callState_inv _ _ _ (by decide), rfl, rfl, rfl, by decide, rfl, Nat.one_pos⟩

/-- A call that ends through Stopping, and one that ends through BusError. -/
theorem witness_ReturnValueIsTheOutcome :
    (StandingInv (callState .stopping .write []) ∧ ∃ t, step (callState .stopping .write []) = .next t ∧ t.inCall = false)
    ∧ StandingInv (callState .busError .write []) ∧ (callState .busError .write []).inCall = true
    ∧ ∃ t, step (callState .busError .write []) = .next t ∧ t.inCall = false := by
  refine ⟨⟨callState_inv _ _ _ (by decide), ⟨_, rfl, rfl⟩⟩, callState_inv _ _ _ (by decide), rfl, ?_⟩
  refine ⟨loopTest (reinit .bus0 (unstick .bus0 (countError (callState .busError .write [])))), rfl, ?_⟩
  simp [loopTest, callState, inCallWith, State.reset, reinitTs]

theorem witness_EveryCallReturns :
    StandingInv (callState .starting .read []) ∧ (callState .starting .read []).inCall = true
    ∧ ((callState .starting .read []).ts.get .bus0).state = PState.starting.code :=
  ⟨callState_inv _ _ _ (by decide), rfl, rfl⟩

theorem witness_FaultFreeWrite :
    let s := idleState [0x00, 0x02, 0x08, 0x02]
    StandingInv s ∧ s.inCall = false ∧ busOfNumber 0 = some .bus0 ∧ (s.bus.get .bus0).initialized = true
      ∧ s.env.status = 0x00#6 :: 0x02#6 :: 0x08#6 :: 0x02#6 :: [] :=
  ⟨idleState_inv _, rfl, rfl, rfl, rfl⟩

/-- V2's read of one byte. -/
theorem witness_FaultFreeReadDeliversBytesInOrder :
    let s := idleState [0x00, 0x02, 0x08, 0x04]
    StandingInv s ∧ s.inCall = false ∧ busOfNumber 0 = some .bus0 ∧ (s.bus.get .bus0).initialized = true
      ∧ (memOf [0]).wf = true ∧ (1 : Byte).toNat ≤ (memOf [0]).length ∧ [0x71#8].length = (1 : Byte).toNat
      ∧ s.env.status = 0x00#6 :: 0x02#6 :: 0x08#6 :: (List.replicate (1 : Byte).toNat 0x04#6 ++ [])
      ∧ s.env.recv = [0x71] ++ [] :=
  ⟨idleState_inv _, rfl, rfl, rfl, rfl, by decide, rfl, rfl, rfl⟩

theorem witness_AddressNackPath :
    let s := callState .starting .write [0x00, 0x10]
    StandingInv s ∧ s.inCall = true ∧ (s.ts.get s.cur).state = PState.starting.code
      ∧ s.env.status = 0x00#6 :: 0x10#6 :: [] :=
  ⟨callState_inv _ _ _ (by decide), rfl, rfl, rfl⟩

theorem witness_BusyBusPath :
    let s := callState .starting .write (List.replicate Config.tLong 0x01#6)
    StandingInv s ∧ s.inCall = true ∧ (s.ts.get s.cur).state = PState.starting.code
      ∧ s.env.status = List.replicate Config.tLong 0x01#6 ++ [] :=
  ⟨callState_inv _ _ _ (by decide), rfl, rfl, (List.append_nil _).symm⟩

/-- Two states in a call on bus 0 that differ in the counter, the requests waiting, the trace and the other bus. -/
theorem witness_StepInCallDependsOnItsBusOnly :
    let s := callState .nack .write []
    let s' := { s with
      errcnt := 7, inbox := [.host 0x40000000 []], trace := [.errInc 7]
      ts := { s.ts with bus1 := oneByte .idle .read 3 } }
    s.inCall = true ∧ s'.inCall = true ∧ s'.cur = s.cur ∧ s'.ts.get s.cur = s.ts.get s.cur
      ∧ s'.bus.get s.cur = s.bus.get s.cur ∧ s'.overclock = s.overclock ∧ s'.env = s.env ∧ ∃ t, step s = .next t :=
  ⟨rfl, rfl, rfl, rfl, rfl, rfl, rfl, ⟨_, rfl⟩⟩

end Sys2Proof.Machine
end

section
/-! PROOFS. Accesses to the borrowed array that fall outside it (20_memory.md R53). -/

namespace Sys2Proof.Machine

/-- Ties the model's countdown (R14) to the next state the statements name for a poll that does not end its wait. -/
theorem tick_afterPoll (b : BusId) (s : State) :
    tick b (afterPoll b s) = { polled b s with ts := s.ts.set b (failedPoll (s.ts.get b)) } := by
  rw [tick_eq]
  simp only [Nat.sub_eq_zero_iff_le]
  rfl

theorem bufRead_eq_none_iff (buf : Option Memory) (i : Nat) :
    bufRead buf i = none ↔ ∀ m, buf = some m → memRead m i = none := by
  cases buf with
  | none => simp [bufRead]
  | some m => simp [bufRead]

/-- R51 and R52 stop at the same indices, whatever byte is to be written. -/
theorem bufWrite_eq_none_iff (buf : Option Memory) (i : Nat) (v : Byte) :
    bufWrite buf i v = none ↔ bufRead buf i = none := by
  cases buf with
  | none => exact ⟨fun _ => rfl, fun _ => rfl⟩
  | some m =>
    show memWrite m i v = none ↔ memRead m i = none
    unfold memWrite
    cases memRead m i with
    | none => simp
    | some w => simp

theorem exec_stepTransferRead_of_bufRead_eq_none (s : State) (hi : (s.bus.get s.cur).initialized = true)
    (hr : bufRead (s.ts.get s.cur).buf (s.ts.get s.cur).cursor.toNat = none) :
    exec .stepTransferRead s =
      if statusRxReady (statusAnswer s) = true then .fault .bufferOutOfRange
      else .next (tick s.cur (afterPoll s.cur s)) := by
  have hw := (bufWrite_eq_none_iff _ _ (recvAnswer (afterPoll s.cur s))).mpr hr
  show execStepTransferRead s = _
  rw [execStepTransferRead, onStep_of_initialized s _ hi]
  simp only [hw]

theorem exec_stepTransferWrite_of_bufRead_eq_none (s : State) (hi : (s.bus.get s.cur).initialized = true)
    (hr : bufRead (s.ts.get s.cur).buf (s.ts.get s.cur).cursor.toNat = none) :
    exec .stepTransferWrite s =
      if statusTxReady (statusAnswer s) = true then .fault .bufferOutOfRange
      else .next (tick s.cur (afterPoll s.cur s)) := by
  show execStepTransferWrite s = _
  rw [execStepTransferWrite, onStep_of_initialized s _ hi]
  simp only [hr]

/-- Settles O31: outside the array the buffer has no byte to read and none to write, so a ready Transfer is stuck in either
direction, and a poll without the ready flag counts down. -/
theorem accessOutsideTheArrayIsStuck : Obligations.AccessOutsideTheArrayIsStuck := by
  intro s hi _ hm
  have hr := (bufRead_eq_none_iff _ _).mpr hm
  rw [exec_stepTransferRead_of_bufRead_eq_none s hi hr, exec_stepTransferWrite_of_bufRead_eq_none s hi hr,
    tick_afterPoll]
  exact ⟨rfl, rfl⟩

end Sys2Proof.Machine
end

section
/-! PROOFS. The on-wire address (30_encoding.md R80). -/

namespace Sys2Proof.Machine

theorem onWire_toNat (a : BitVec 7) : (onWire a).toNat = 2 * a.toNat := by
  rw [onWire, BitVec.toNat_append, ← Nat.shiftLeft_add_eq_or_of_lt (by decide), Nat.shiftLeft_eq]
  simp [Nat.mul_comm]

/-- Settles O9: the address is what stands above the one bit 0 that `onWire` appends. -/
theorem onWireAddressIsShifted : Obligations.OnWireAddressIsShifted := by
  refine ⟨fun a => ⟨?_, ?_, ?_, onWire_toNat a⟩, rfl⟩
  · apply BitVec.eq_of_toNat_eq
    have := a.isLt
    simp only [onWire_toNat, BitVec.toNat_shiftLeft, BitVec.toNat_setWidth, Nat.shiftLeft_eq]
    omega
  · apply BitVec.eq_of_toNat_eq
    have := a.isLt
    simp only [BitVec.extractLsb'_toNat, onWire_toNat, Nat.shiftRight_eq_div_pow]
    omega
  · rw [onWire, BitVec.getLsbD_append]
    rfl

end Sys2Proof.Machine
end

section
/-! PROOFS. Host words by mask and match, and the words that spell no operation (30_encoding.md R73 to R79). -/

namespace Sys2Proof

/-! ### Masks -/

/-- The mask with ones in the `len` bits from bit `start` up. -/
def fieldMask (start len : Nat) : Word := (BitVec.allOnes len).setWidth 32 <<< start

/-- A word matches under the mask of one field exactly when that field has the value. -/
theorem and_fieldMask_eq_iff (w : Word) {start len : Nat} (v : BitVec len) (h : start + len ≤ 32) :
    w &&& fieldMask start len = v.setWidth 32 <<< start ↔ w.extractLsb' start len = v := by
  simp only [BitVec.eq_of_getLsbD_eq_iff, fieldMask, BitVec.getLsbD_and, BitVec.getLsbD_shiftLeft,
    BitVec.getLsbD_setWidth, BitVec.getLsbD_allOnes, BitVec.getLsbD_extractLsb']
  constructor
  · intro hw i hi
    have h1 : start + i < 32 := by omega
    have h2 : i < 32 := by omega
    simpa [hi, h1, h2] using hw (start + i) h1
  · intro hw i hi
    by_cases hs : start ≤ i ∧ i < start + len
    · have h1 : start + (i - start) = i := by omega
      have h2 : i - start < 32 := by omega
      have h3 : i - start < len := by omega
      simpa [hi, hs.1, Nat.not_lt.mpr hs.1, h1, h2, h3] using hw (i - start) h3
    · have h1 : i < start ∨ len ≤ i - start := by omega
      rcases h1 with h1 | h1
      · simp [h1]
      · simp [h1, Nat.not_lt.mpr h1]

/-- A mask of two parts, where the match has no bit in the second part. -/
theorem and_or_eq_iff {v m' : Word} (w m : Word) (h : v &&& m' = 0) :
    w &&& (m ||| m') = v ↔ w &&& m = v ∧ w &&& m' = 0 := by
  rw [BitVec.and_or_distrib_left]
  constructor
  · rintro rfl
    have hm' : w &&& m' = 0 := by
      rw [← h]
      ext i hi
      simp only [BitVec.getElem_and, BitVec.getElem_or]
      cases w[i] <;> cases m'[i] <;> simp
    exact ⟨by simp [hm'], hm'⟩
  · rintro ⟨hm, hm'⟩
    simp [hm, hm']

/-- The masks of R74 to R78: `op` and one field that must be 0. -/
theorem and_hostMask_eq_iff (w : Word) (op : BitVec 4) {start len : Nat} (h : start + len ≤ 32)
    (hop : op.setWidth 32 <<< 28 &&& fieldMask start len = 0) :
    w &&& (fieldMask 28 4 ||| fieldMask start len) = op.setWidth 32 <<< 28 ↔
      wordTop w = op ∧ w.extractLsb' start len = 0 := by
  have hfield := and_fieldMask_eq_iff w (0 : BitVec len) h
  rw [BitVec.ofNat_eq_ofNat, BitVec.setWidth_zero, BitVec.zero_shiftLeft] at hfield
  rw [and_or_eq_iff w _ hop, and_fieldMask_eq_iff w op (by decide)]
  exact and_congr_right fun _ => hfield

/-! ### The decoder of host words -/

theorem bit23_eq_false_iff (w : Word) : w.getLsbD 23 = false ↔ w.extractLsb' 23 1 = 0 := by
  simp [BitVec.eq_of_getLsbD_eq_iff]

/-- What the decoder of host words accepts and what it reads there (R74 to R78). -/
theorem decodeHost_eq_ok_iff (w : Word) (buf : Memory) (i : Instr) :
    decodeHost w buf = .ok i ↔
      (wordTop w = 0 ∧ w.extractLsb' 0 24 = 0 ∧ .initBus (hostBus w) = i)
      ∨ (wordTop w = 1 ∧ w.extractLsb' 1 27 = 0 ∧ .setOverclock (w.getLsbD 0) = i)
      ∨ (wordTop w = 2 ∧ w.getLsbD 23 = false ∧ .write (hostBus w) (hostAddr7 w) (hostReg w) (hostData w) = i)
      ∨ (wordTop w = 3 ∧ w.getLsbD 23 = false ∧ buf.wf = true
          ∧ .read (hostBus w) (hostAddr7 w) (hostReg w) (hostData w) buf = i)
      ∨ (wordTop w = 4 ∧ w.extractLsb' 0 28 = 0 ∧ .getErrorCount = i) := by
  unfold decodeHost
  simp only [← BitVec.toNat_inj (x := wordTop w)]
  generalize (wordTop w).toNat = op
  split
  · split <;> simp_all
  · split <;> simp_all
  · split <;> simp_all
  · split
    · simp_all
    · split <;> simp_all
  · split <;> simp_all
  · simp_all

theorem decodeHost_error_of_not_ok {w : Word} {buf : Memory} (h : ∀ i, decodeHost w buf ≠ .ok i) :
    ∃ x, decodeHost w buf = .error x := by
  cases hd : decodeHost w buf with
  | ok i => exact absurd hd (h i)
  | error x => exact ⟨x, rfl⟩

/-- Settles O2: the mask of each word is `op` and the field that must be 0, which is what the decoder tests. -/
theorem hostWordsDecodeByMaskAndMatch : Obligations.HostWordsDecodeByMaskAndMatch := by
  refine ⟨fun w buf => ⟨?_, ?_, ?_, fun hbuf => ?_, ?_⟩, rfl, rfl⟩
  · calc _ ↔ wordTop w = 0 ∧ w.extractLsb' 0 24 = 0 := by simp [decodeHost_eq_ok_iff, hostBus]
      _ ↔ _ := (and_hostMask_eq_iff w 0 (by decide) (by decide)).symm
  · calc _ ↔ wordTop w = 1 ∧ w.extractLsb' 1 27 = 0 := by simp [decodeHost_eq_ok_iff]
      _ ↔ _ := (and_hostMask_eq_iff w 1 (by decide) (by decide)).symm
  · calc _ ↔ wordTop w = 2 ∧ w.extractLsb' 23 1 = 0 := by
          rw [← bit23_eq_false_iff]
          simp [decodeHost_eq_ok_iff, hostBus, hostAddr7, hostReg, hostData]
      _ ↔ _ := (and_hostMask_eq_iff w 2 (by decide) (by decide)).symm
  · calc _ ↔ wordTop w = 3 ∧ w.extractLsb' 23 1 = 0 := by
          rw [← bit23_eq_false_iff]
          simp [decodeHost_eq_ok_iff, hbuf, hostBus, hostAddr7, hostReg, hostData]
      _ ↔ _ := (and_hostMask_eq_iff w 3 (by decide) (by decide)).symm
  · calc _ ↔ wordTop w = 4 ∧ w.extractLsb' 0 28 = 0 := by simp [decodeHost_eq_ok_iff]
      _ ↔ _ := (and_hostMask_eq_iff w 4 (by decide) (by decide)).symm

end Sys2Proof

namespace Sys2Proof.Machine

/-! ### Host words that are refused -/

section
variable {s : State} {w : Word} {buf : Memory} {rest : List Request} (hcall : s.inCall = false)
  (hbox : s.inbox = .host w buf :: rest)
include hcall hbox

/-- Out of a call a host word that comes next is fetched through the decoder (R73). -/
theorem fetch_host : fetch s = fetchDecoded (.host w buf) { s with inbox := rest } := by
  simp [fetch, hcall, hbox, fetchRequest]

theorem step_host_of_error {x : DecodeError} (hd : decodeHost w buf = .error x) :
    step s = .refused (.undecodable x) := by
  simp [step, fetch_host hcall hbox, fetchDecoded, decode, hd]

theorem step_host_of_ok {i : Instr} (hd : decodeHost w buf = .ok i) :
    step s = settle (exec i { s with inbox := rest }) := by
  simp [step, fetch_host hcall hbox, fetchDecoded, decode, hd]

end

theorem busOfNumber_eq_none {n : BitVec 4} (h : 2 ≤ n.toNat) : busOfNumber n = none := by
  revert n; decide

theorem onFreeBus_busOutOfRange {n : BitVec 4} (h : 2 ≤ n.toNat) (s : State)
    (f : BusId → Host.Outcome State Fault Refusal) : onFreeBus n s f = .refused .busOutOfRange := by
  simp [onFreeBus, busOfNumber_eq_none h]

/-- Settles O3: no reserved word is among those the decoder accepts, and the operations that name a bus check its number
first. -/
theorem reservedHostWordsAreRefused : Obligations.ReservedHostWordsAreRefused := by
  refine fun s w buf rest hcall hbox => ⟨fun hres => ?_, fun i hd hbus => ?_⟩
  · have hnot : ∀ i, decodeHost w buf ≠ .ok i := by
      intro i hi
      rw [decodeHost_eq_ok_iff] at hi
      rcases hi with ⟨hop, hz, -⟩ | ⟨hop, hz, -⟩ | ⟨hop, hz, -⟩ | ⟨hop, hz, -⟩ | ⟨hop, hz, -⟩ <;>
        simp [show w.extractLsb' 28 4 = _ from hop, hz, -BitVec.getLsbD_eq_getElem] at hres
    obtain ⟨x, hx⟩ := decodeHost_error_of_not_ok hnot
    exact ⟨x, hx, step_host_of_error hcall hbox hx⟩
  · rw [step_host_of_ok hcall hbox hd]
    obtain ⟨n, rfl, hn⟩ | ⟨n, a, r, d, rfl, hn⟩ | ⟨n, a, r, l, m, rfl, hn⟩ := hbus
    · exact congrArg settle (onFreeBus_busOutOfRange hn _ _)
    · exact congrArg settle (onFreeBus_busOutOfRange hn _ _)
    · exact congrArg settle (onFreeBus_busOutOfRange hn _ _)

end Sys2Proof.Machine
end

section
/-! PROOFS. What a step is made of: the primitives of 00_scope.md R13 over the state. From it, which state codes a step
writes (30_encoding.md R72) and which commands it issues (R89). -/

namespace Sys2Proof.Machine

/-- `t` comes from `s` by a run of primitives: writes of a `TS[b]` that keep its state code or set that of a state,
events appended whose commands are listed (R89), and changes to other fields. -/
inductive PrimitiveRun (s : State) : State → Prop where
  | refl : PrimitiveRun s s
  | updTs {t : State} (b : BusId) {f : TransactionState → TransactionState} (h : PrimitiveRun s t)
      (hf : ∀ x, (f x).state = x.state ∨ ∃ p : PState, (f x).state = p.code) : PrimitiveRun s (updTs b f t)
  | emit {t : State} {e : Event} (h : PrimitiveRun s t) (he : ∀ b c, e = .cmd b c → everIssued c = true) :
      PrimitiveRun s (emit e t)
  | other {t u : State} (h : PrimitiveRun s t) (hts : u.ts = t.ts) (htrace : u.trace = t.trace) : PrimitiveRun s u

theorem code_toNat_le (p : PState) : p.code.toNat ≤ 12 := by cases p <;> decide

/-- The commands the model may issue are those of R85, R86 and R88. -/
theorem everIssued_eq_true_iff (c : Command) :
    everIssued c = true ↔
      (∃ A, c = .configure A 1 .softEnd .startWrite) ∨ (∃ A, c = .configure A 0 .autoEnd .stop)
      ∨ (∃ A N, c = .configure A N .autoEnd .startRead) ∨ (∃ A N, c = .configure A N .autoEnd .noStartStop)
      ∨ (∃ v, c = .send v) ∨ c = .clear 4 ∨ c = .clear 5 := by
  cases c with
  | configure a n e m => cases e <;> cases m <;> simp [everIssued]
  | send v => simp [everIssued]
  | clear f => simp [everIssued, flagNack, flagStop]

namespace PrimitiveRun

variable {s t u : State}

theorem trans (h : PrimitiveRun s t) (h' : PrimitiveRun t u) : PrimitiveRun s u := by
  induction h' with
  | refl => exact h
  | updTs b _ hf ih => exact ih.updTs b hf
  | emit _ he ih => exact ih.emit he
  | other _ hts htrace ih => exact ih.other hts htrace

/-- No run of primitives writes a reserved state code. -/
theorem state_eq_or_le (h : PrimitiveRun s t) (b : BusId) :
    (t.ts.get b).state = (s.ts.get b).state ∨ (t.ts.get b).state.toNat ≤ 12 := by
  induction h with
  | refl => exact .inl rfl
  | @updTs t c f _ hf ih =>
    by_cases hb : b = c
    · subst hb
      rw [updTs_ts, PerBus.get_set_same]
      rcases hf (t.ts.get b) with hf | ⟨p, hp⟩
      · rwa [hf]
      · exact .inr (hp ▸ code_toNat_le p)
    · rwa [updTs_ts, PerBus.get_set_other _ _ hb]
  | emit _ _ ih => exact ih
  | other _ hts _ ih => rwa [hts]

/-- A run of primitives only appends to the trace, and no command but those listed. -/
theorem trace_eq_append (h : PrimitiveRun s t) :
    ∃ evs, t.trace = s.trace ++ evs ∧ ∀ b c, Event.cmd b c ∈ evs → everIssued c = true := by
  induction h with
  | refl => exact ⟨[], by simp⟩
  | updTs _ _ _ ih => exact ih
  | @emit t e _ he ih =>
    obtain ⟨evs, htrace, hevs⟩ := ih
    refine ⟨evs ++ [e], by simp [htrace], fun b c hc => ?_⟩
    rcases List.mem_append.mp hc with hc | hc
    · exact hevs b c hc
    · exact he b c (List.mem_singleton.mp hc).symm
  | other _ _ htrace ih => rwa [htrace]

/-! ### The shared operations as runs of primitives -/

theorem setState (h : PrimitiveRun s t) {b : BusId} {p : PState} : PrimitiveRun s (setState b p t) :=
  h.updTs b fun _ => .inr ⟨p, rfl⟩

/-- A write of `TS[b]` that keeps the state code. -/
theorem keepCode (h : PrimitiveRun s t) {b : BusId} {f : TransactionState → TransactionState}
    (hf : ∀ x, (f x).state = x.state := by intro _; rfl) : PrimitiveRun s (Machine.updTs b f t) :=
  h.updTs b fun x => .inl (hf x)

/-- A command whose form is listed: what `everIssued` computes to `true` needs no proof. -/
theorem cmd (h : PrimitiveRun s t) {b : BusId} {c : Command} (hc : everIssued c = true := by rfl) :
    PrimitiveRun s (cmd b c t) :=
  h.emit fun _ _ he => by cases he; exact hc

/-- An event that is no command. -/
theorem emitOther (h : PrimitiveRun s t) {e : Event} (he : ∀ b c, e ≠ .cmd b c := by simp) :
    PrimitiveRun s (Machine.emit e t) :=
  h.emit fun b c heq => absurd heq (he b c)

theorem afterPoll (h : PrimitiveRun s t) {b : BusId} : PrimitiveRun s (afterPoll b t) :=
  (h.other (u := { t with env := t.env.afterStatus }) rfl rfl).emitOther

theorem afterRecv (h : PrimitiveRun s t) {b : BusId} : PrimitiveRun s (afterRecv b t) :=
  (h.other (u := { t with env := t.env.afterRecv }) rfl rfl).emitOther

theorem afterReadScl (h : PrimitiveRun s t) {b : BusId} : PrimitiveRun s (afterReadScl b t) :=
  (h.other (u := { t with env := t.env.afterScl }) rfl rfl).emitOther

theorem delay (h : PrimitiveRun s t) {us : Nat} : PrimitiveRun s (delay us t) := h.emitOther

theorem drive (h : PrimitiveRun s t) {b : BusId} {pin : Line} {lvl : Level} : PrimitiveRun s (drive b pin lvl t) :=
  h.emitOther

theorem configOD (h : PrimitiveRun s t) {b : BusId} {pin : Line} : PrimitiveRun s (configOD b pin t) :=
  h.emitOther

theorem tick (h : PrimitiveRun s t) {b : BusId} : PrimitiveRun s (tick b t) := by
  rw [tick_eq]
  refine h.updTs b fun x => ?_
  by_cases h0 : x.timeout - 1 = 0
  · exact .inr ⟨.busError, if_pos h0⟩
  · exact .inl (if_neg h0)

theorem byteMoved (h : PrimitiveRun s t) {b : BusId} : PrimitiveRun s (byteMoved b t) := by
  rw [byteMoved_eq]
  refine h.updTs b fun x => ?_
  by_cases h0 : x.remaining - 1 = 0
  · exact .inr ⟨.stopping, if_pos h0⟩
  · exact .inl (if_neg h0)

theorem enterWait (h : PrimitiveRun s t) {b : BusId} {p : PState} : PrimitiveRun s (enterWait b p t) :=
  h.keepCode.setState

theorem startAddress (h : PrimitiveRun s t) {b : BusId} : PrimitiveRun s (startAddress b t) :=
  h.cmd.enterWait

theorem zeroLengthStop (h : PrimitiveRun s t) {b : BusId} : PrimitiveRun s (zeroLengthStop b t) :=
  h.keepCode.cmd.setState

theorem reinit (h : PrimitiveRun s t) {b : BusId} : PrimitiveRun s (reinit b t) :=
  ((h.other (u := { t with bus := t.bus.set b { initialized := true, profile := profileOf t.overclock } })
    rfl rfl).emitOther).updTs b fun _ => .inr ⟨.idle, rfl⟩

theorem countError (h : PrimitiveRun s t) : PrimitiveRun s (countError t) :=
  (h.other (u := { t with errcnt := t.errcnt + 1 }) rfl rfl).emitOther

theorem seedCall (h : PrimitiveRun s t) {b : BusId} {d : Dir} {addr7 : BitVec 7} {reg count : Byte} {buf : Memory} :
    PrimitiveRun s (seedCall b d addr7 reg count buf t) :=
  h.updTs b fun _ => .inr ⟨.starting, rfl⟩

theorem enterCall (h : PrimitiveRun s t) {b : BusId} : PrimitiveRun s (enterCall b t) := h.other rfl rfl

theorem finishCall (h : PrimitiveRun s t) {b : BusId} : PrimitiveRun s (finishCall b t) :=
  ((h.keepCode (b := b) (f := fun x => { x with buf := none })).emitOther
    (e := .ret b (t.ts.get b).outcome)).other rfl rfl

theorem stretchWait (h : PrimitiveRun s t) {b : BusId} (k : Nat) : PrimitiveRun s (stretchWait b k t) := by
  induction k generalizing t with
  | zero => exact h
  | succ k ih =>
    rw [Machine.stretchWait]
    split
    · exact h.afterReadScl
    · exact ih h.afterReadScl.delay

theorem pulses (h : PrimitiveRun s t) {b : BusId} (k n : Nat) : PrimitiveRun s (pulses b k n t) := by
  induction n generalizing t with
  | zero => exact h
  | succ n ih => exact ih (h.stretchWait k).drive.delay.drive.delay

theorem unstick (h : PrimitiveRun s t) {b : BusId} : PrimitiveRun s (unstick b t) :=
  (h.drive.drive.configOD.configOD.pulses _ _).drive.delay.drive.delay.drive.delay.drive

theorem loopTest (h : PrimitiveRun s t) : PrimitiveRun s (loopTest t) := by
  unfold Machine.loopTest
  split
  · exact h.finishCall
  · exact h

/-! ### Every instruction -/

/-- A step rule that always answers. -/
theorem of_onStep {g : BusId → State} (h : onStep s (fun b => .next (g b)) = .next t)
    (hg : ∀ b, PrimitiveRun s (g b)) : PrimitiveRun s t := by
  obtain ⟨-, hn⟩ := onStep_next h
  cases hn
  exact hg s.cur

theorem of_issue {c : Command} (h : issue c s = .next t) : PrimitiveRun s t := by
  obtain ⟨hc, rfl⟩ := issue_next h
  exact refl.cmd hc

theorem of_stepStartingWait (h : execStepStartingWait s = .next t) : PrimitiveRun s t :=
  of_onStep h fun b => by
    split
    · exact refl.afterPoll.tick
    · exact refl.afterPoll.setState

theorem of_stepAddrWait (h : execStepAddrWait s = .next t) : PrimitiveRun s t :=
  of_onStep h fun b => by
    split
    · exact refl.afterPoll.setState
    · split
      · exact refl.afterPoll.setState
      · exact refl.afterPoll.tick

theorem of_stepRegisterWait (h : execStepRegisterWait s = .next t) : PrimitiveRun s t :=
  of_onStep h fun b => by
    split
    · exact refl.afterPoll.setState
    · split
      · split
        · exact refl.afterPoll.zeroLengthStop
        · exact refl.afterPoll.setState
      · exact refl.afterPoll.tick

theorem of_stepRestarting (h : execStepRestarting s = .next t) : PrimitiveRun s t :=
  of_onStep h fun b => by
    refine (refl.cmd ?_).enterWait
    cases (s.ts.get b).dir <;> rfl

theorem of_stepTransferRead (h : execStepTransferRead s = .next t) : PrimitiveRun s t := by
  obtain ⟨-, hn⟩ := onStep_next h
  dsimp only at hn
  split at hn
  · cases hn
    split
    · exact refl.afterPoll.afterRecv.keepCode.byteMoved
    · exact refl.afterPoll.tick
  · split at hn
    · cases hn
    · cases hn
      exact refl.afterPoll.tick

theorem of_stepTransferWrite (h : execStepTransferWrite s = .next t) : PrimitiveRun s t := by
  obtain ⟨-, hn⟩ := onStep_next h
  dsimp only at hn
  split at hn
  · cases hn
    split
    · exact refl.afterPoll.cmd.byteMoved
    · exact refl.afterPoll.tick
  · split at hn
    · cases hn
    · cases hn
      exact refl.afterPoll.tick

end PrimitiveRun

open PrimitiveRun in
/-- Every instruction that answers is a run of primitives. -/
theorem exec_primitiveRun {i : Instr} {s t : State} (h : exec i s = .next t) : PrimitiveRun s t := by
  cases i with
  | initBus n =>
    obtain ⟨b, -, -, hn⟩ := onFreeBus_next h
    cases hn
    exact refl.reinit
  | setOverclock flag =>
    simp only [exec, execSetOverclock] at h
    split at h
    · cases h; exact refl.other rfl rfl
    · cases h
  | write n a r d =>
    obtain ⟨b, -, -, -, hn⟩ := onReadyBus_next h
    cases hn
    exact refl.seedCall.enterCall
  | read n a r l m =>
    obtain ⟨b, -, -, -, hn⟩ := onReadyBus_next h
    split at hn
    · cases hn; exact refl.seedCall.enterCall
    · cases hn
  | getErrorCount =>
    simp only [exec, execGetErrorCount] at h
    split at h
    · cases h; exact refl.other rfl rfl
    · cases h
  | stepIdle d => exact of_onStep (show execStepIdle s = _ from h) fun _ => refl
  | stepStopping d => exact of_onStep (show execStepStopping s = _ from h) fun _ => refl.cmd.setState
  | stepStarting d => exact of_onStep (show execStepStarting s = _ from h) fun _ => refl.keepCode.enterWait
  | stepStartingWait d => exact of_stepStartingWait h
  | stepReadAddr d => exact of_onStep (show execStepReadAddr s = _ from h) fun _ => refl.startAddress
  | stepWriteAddr d => exact of_onStep (show execStepWriteAddr s = _ from h) fun _ => refl.startAddress
  | stepAddrWait d => exact of_stepAddrWait h
  | stepRegister d => exact of_onStep (show execStepRegister s = _ from h) fun _ => refl.cmd.enterWait
  | stepRegisterWait d => exact of_stepRegisterWait h
  | stepRestarting d => exact of_stepRestarting h
  | stepTransferRead => exact of_stepTransferRead h
  | stepTransferWrite => exact of_stepTransferWrite h
  | stepNack d => exact of_onStep (show execStepNack s = _ from h) fun _ => refl.cmd.cmd.setState
  | stepBusError d => exact of_onStep (show execStepBusError s = _ from h) fun _ => refl.countError.unstick.reinit
  | configure a n e m => exact of_issue h
  | send v => exact of_issue (show execSend v s = _ from h)
  | recv => cases h; exact refl.afterRecv
  | clear f => exact of_issue h

/-- A fetch only takes a request and picks the bus. -/
theorem fetch_run_frame {i : Instr} {s u : State} (h : fetch s = .run i u) : u.ts = s.ts ∧ u.trace = s.trace := by
  unfold fetch at h
  split at h
  · obtain ⟨-, -, rfl⟩ := fetchKey_run h
    exact ⟨rfl, rfl⟩
  · split at h
    · cases h
    · next r rest _ =>
      cases r with
      | host w buf => obtain ⟨-, rfl⟩ := fetchDecoded_run h; exact ⟨rfl, rfl⟩
      | invoke b => obtain ⟨-, -, rfl⟩ := fetchKey_run h; exact ⟨rfl, rfl⟩
      | command b w => obtain ⟨-, rfl⟩ := fetchDecoded_run h; exact ⟨rfl, rfl⟩

/-- Every step that answers is a run of primitives. -/
theorem step_primitiveRun {s t : State} (h : step s = .next t) : PrimitiveRun s t := by
  rcases step_next h with ⟨-, rfl⟩ | ⟨i, u, v, hf, hv, rfl⟩
  · exact .refl
  · obtain ⟨hts, htrace⟩ := fetch_run_frame hf
    exact ((PrimitiveRun.refl.other hts htrace).trans (exec_primitiveRun hv)).loopTest

/-! ### Reserved state codes -/

theorem ofCode_eq_none {c : BitVec 4} (h : 13 ≤ c.toNat) : PState.ofCode c = none := by
  revert c; decide

theorem fetchKey_reserved {b : BusId} {s : State} (hi : (s.bus.get b).initialized = true)
    (hc : 13 ≤ (s.ts.get b).state.toNat) : fetchKey b s = .rejected (.undecodable .reservedStateCode) := by
  simp [fetchKey, hi, fetchDecoded, decode, decodeKey_stepKey, ofCode_eq_none hc]

/-- Settles O5: a reserved code selects no rule, and no primitive writes one. -/
theorem reservedStateCodesRefusedAndNeverWritten : Obligations.ReservedStateCodesRefusedAndNeverWritten := by
  refine ⟨fun s b rest hi hc hrun => ?_, fun s t h b => (step_primitiveRun h).state_eq_or_le b⟩
  have hf : fetch s = .rejected (.undecodable .reservedStateCode) := by
    rcases hrun with ⟨hcall, rfl⟩ | ⟨hcall, hbox⟩
    · simp [fetch, hcall, fetchKey_reserved hi hc]
    · have hfetch : fetch s = fetchKey b { s with inbox := rest } := by simp [fetch, hcall, hbox, fetchRequest]
      exact hfetch.trans (fetchKey_reserved hi hc)
  simp [step, hf]

/-- Settles O37: a step is a run of primitives, and those append no command but the listed ones. -/
theorem onlyListedCommandsAreIssued : Obligations.OnlyListedCommandsAreIssued := by
  intro s t h
  obtain ⟨evs, htrace, hevs⟩ := (step_primitiveRun h).trace_eq_append
  exact ⟨evs, htrace, fun b c hc => (everIssued_eq_true_iff c).mp (hevs b c hc)⟩

end Sys2Proof.Machine
end

section
/-! PROOFS. The step rules of the protocol state machine: what each answers on an initialized bus
(41_protocol_state_machine.md R104 to R117). -/

namespace Sys2Proof.Machine

/-! ### Shared operations as the records the statements name -/

/-- A step rule that always answers, on an initialized bus (R100). -/
theorem onStep_eq_next {s t : State} {g : BusId → State} (hi : (s.bus.get s.cur).initialized = true)
    (h : g s.cur = t) : onStep s (fun b => .next (g b)) = .next t := by
  rw [onStep_of_initialized s _ hi, h]

/-- Two writes of one `TS[b]` are one. -/
theorem updTs_updTs (b : BusId) (f g : TransactionState → TransactionState) (s : State) :
    updTs b g (updTs b f s) = updTs b (fun t => g (f t)) s := by
  simp [updTs]

/-- Ties the model's byte count (R113, R114) to the `TS[b]` the statements name after a byte was moved. -/
theorem byteMoved_eq_updTs_movedByte (b : BusId) (s : State) : byteMoved b s = updTs b movedByte s := by
  have hout : ∀ t : TransactionState,
      (t.outcome || t.remaining - 1 == 0) = if t.remaining - 1 = 0 then true else t.outcome := by
    intro t
    by_cases h : t.remaining - 1 = 0
    · rw [h, if_pos rfl, beq_self_eq_true, Bool.or_true]
    · rw [if_neg h, beq_eq_false_iff_ne.mpr h, Bool.or_false]
  simp only [byteMoved_eq, hout]
  rfl

/-- A poll that ends its wait with the state `p`. -/
theorem setState_afterPoll (b : BusId) (p : PState) (s : State) :
    setState b p (afterPoll b s) =
      { polled b s with ts := s.ts.set b { s.ts.get b with state := p.code } } := rfl

/-- A command, then the end of its enter step (R102). -/
theorem enterWait_cmd (b : BusId) (p : PState) (c : Command) (s : State) :
    enterWait b p (cmd b c s) =
      { s with
        trace := s.trace ++ [.cmd b c]
        ts := s.ts.set b { s.ts.get b with timeout := Config.tLong, state := p.code } } := by
  rw [enterWait_eq]
  rfl

/-- The zero-length stop after a poll (R111). -/
theorem zeroLengthStop_afterPoll (b : BusId) (s : State) :
    zeroLengthStop b (afterPoll b s) =
      { polled b s with
        trace := (polled b s).trace ++ [.cmd b (.configure (s.ts.get b).addrW 0 .autoEnd .stop)]
        ts := s.ts.set b { s.ts.get b with outcome := true, state := PState.stopping.code } } := by
  simp [zeroLengthStop, setState, updTs, cmd, emit, afterPoll, polled, outcomeSet]

/-! ### Rules that do not poll -/

/-- Settles O21: the rule hands the state back, on either key. -/
theorem idleStepDoesNothing : Obligations.IdleStepDoesNothing :=
  ⟨rfl, rfl, fun s _ hi => show execStepIdle s = _ from onStep_eq_next hi rfl⟩

/-- Settles O22: clearing the outcome and the enter step are two writes of one `TS[b]`. -/
theorem startingClearsTheOutcome : Obligations.StartingClearsTheOutcome := by
  refine ⟨rfl, rfl, fun s d hi => show execStepStarting s = _ from onStep_eq_next hi ?_⟩
  rw [enterWait_eq, updTs_updTs]
  rfl

/-- Settles O24: both rules begin the address phase by the same command and enter step. -/
theorem addressStepsConfigureOneByte : Obligations.AddressStepsConfigureOneByte := by
  refine ⟨rfl, rfl, rfl, rfl, fun s d i hrule hi => ?_⟩
  rcases hrule with rfl | rfl
  · exact show execStepReadAddr s = _ from onStep_eq_next hi (enterWait_cmd _ _ _ _)
  · exact show execStepWriteAddr s = _ from onStep_eq_next hi (enterWait_cmd _ _ _ _)

/-- Settles O26: one command and the enter step after it. -/
theorem registerSendsTheRegisterByte : Obligations.RegisterSendsTheRegisterByte :=
  ⟨rfl, rfl, fun s _ hi => show execStepRegister s = _ from onStep_eq_next hi (enterWait_cmd _ _ _ _)⟩

/-- Settles O28: the mode is the one of the direction in `TS[b]`. -/
theorem restartingConfiguresTheData : Obligations.RestartingConfiguresTheData := by
  refine ⟨rfl, rfl, fun s d hi => show execStepRestarting s = _ from onStep_eq_next hi ?_⟩
  rw [enterWait_cmd]
  cases hdir : (s.ts.get s.cur).dir <;> simp [hdir]

/-- Settles O32: the two commands are appended in order, and leaving the Nack state writes the state code only. -/
theorem nackStopsAndClears : Obligations.NackStopsAndClears := by
  refine ⟨rfl, rfl, fun s d hi => show execStepNack s = _ from onStep_eq_next hi ?_⟩
  simp [leaveFault, setState, updTs, cmd, emit, flagNack]

/-- Settles O33: one command and one write of the state code. -/
theorem stoppingGoesIdle : Obligations.StoppingGoesIdle :=
  ⟨rfl, rfl, fun s _ hi => show execStepStopping s = _ from onStep_eq_next hi rfl⟩

/-! ### Rules that poll -/

/-- Settles O23: bus-busy clear ends the wait by the direction, busy counts down. -/
theorem startingWaitAwaitsFreeBus : Obligations.StartingWaitAwaitsFreeBus := by
  refine ⟨rfl, rfl, fun s d hi _ => show execStepStartingWait s = _ from onStep_eq_next hi ?_⟩
  rw [tick_afterPoll, setState_afterPoll]
  cases statusBusy (statusAnswer s) with
  | false => cases hdir : (s.ts.get s.cur).dir <;> simp [hdir]
  | true => rfl

/-- Settles O25: each exit is one write of the state code, and without one the poll counts down. -/
theorem addrWaitAwaitsAcknowledge : Obligations.AddrWaitAwaitsAcknowledge := by
  refine ⟨rfl, rfl, fun s d hi _ => show execStepAddrWait s = _ from onStep_eq_next hi ?_⟩
  rw [raise_nack, setState_afterPoll, setState_afterPoll, tick_afterPoll]
  split
  · rfl
  · split <;> rfl

/-- Settles O27: each exit, the zero-length stop among them, and the countdown is the record it is said to be. -/
theorem registerWaitStopsOrGoesOn : Obligations.RegisterWaitStopsOrGoesOn := by
  refine ⟨rfl, rfl, fun s d hi _ => show execStepRegisterWait s = _ from onStep_eq_next hi ?_⟩
  rw [raise_nack, setState_afterPoll, setState_afterPoll, zeroLengthStop_afterPoll, tick_afterPoll]

/-- A byte sent on transmit-ready (R114): the rule where the array has a byte at the cursor. -/
theorem exec_stepTransferWrite_of_bufRead_eq_some {s : State} {v : Byte}
    (hi : (s.bus.get s.cur).initialized = true)
    (hr : bufRead (s.ts.get s.cur).buf (s.ts.get s.cur).cursor.toNat = some v) :
    exec .stepTransferWrite s = .next (
      if statusTxReady (statusAnswer s) = true then byteMoved s.cur (cmd s.cur (.send v) (afterPoll s.cur s))
      else tick s.cur (afterPoll s.cur s)) := by
  show execStepTransferWrite s = _
  rw [execStepTransferWrite, onStep_of_initialized s _ hi]
  simp only [hr]

/-- Settles O30: inside the array there is a byte to send, and moving it is one write of `TS[b]`. -/
theorem transferWriteSendsOneByte : Obligations.TransferWriteSendsOneByte := by
  refine ⟨rfl, fun s m v hi hbuf hread _ _ _ => ?_⟩
  have hr : bufRead (s.ts.get s.cur).buf (s.ts.get s.cur).cursor.toNat = some v := by rw [hbuf]; exact hread
  rw [exec_stepTransferWrite_of_bufRead_eq_some hi hr, byteMoved_eq_updTs_movedByte, tick_afterPoll]
  rfl

/-- A byte received on receive-ready (R113): the rule where the array takes a byte at the cursor. -/
theorem exec_stepTransferRead_of_bufWrite_eq_some {s : State} {m : Memory}
    (hi : (s.bus.get s.cur).initialized = true)
    (hw : bufWrite (s.ts.get s.cur).buf (s.ts.get s.cur).cursor.toNat (recvAnswer (afterPoll s.cur s)) = some m) :
    exec .stepTransferRead s = .next (
      if statusRxReady (statusAnswer s) = true then
        byteMoved s.cur (updTs s.cur (fun t => { t with buf := some m }) (afterRecv s.cur (afterPoll s.cur s)))
      else tick s.cur (afterPoll s.cur s)) := by
  show execStepTransferRead s = _
  rw [execStepTransferRead, onStep_of_initialized s _ hi]
  simp only [hw]

/-- A byte is written to the borrowed array where it has one. -/
theorem bufWrite_of_isSome {buf : Option Memory} {m : Memory} {i : Nat} (v : Byte) (hbuf : buf = some m)
    (h : (memRead m i).isSome) : bufWrite buf i v = some (memPut m i v) := by
  rw [hbuf]
  exact memWrite_of_isSome v h

/-- Settles O29: inside the array the byte is put at the cursor, by the laws of the array nothing else of it changes, and
storing and counting it are two writes of one `TS[b]`. -/
theorem transferReadTakesOneByte : Obligations.TransferReadTakesOneByte := by
  refine ⟨rfl, fun s m hi hbuf hwf hcursor _ _ _ => ?_⟩
  have hbyte := (memRead_isSome_iff m (s.ts.get s.cur).cursor.toNat hwf).mpr hcursor
  refine ⟨_, (memPut_wf _ _ _).trans hwf, memPut_length _ _ _, memRead_memPut_same _ _ _ hbyte,
    fun j hj => memRead_memPut_other m _ hj, ?_⟩
  rw [exec_stepTransferRead_of_bufWrite_eq_some hi (bufWrite_of_isSome _ hbuf hbyte), byteMoved_eq_updTs_movedByte,
    updTs_updTs, tick_afterPoll]
  rfl

end Sys2Proof.Machine
end

section
/-! PROOFS. BusError (41_protocol_state_machine.md R117): one error counted, BusRecovery, and the reinitialization. -/

namespace Sys2Proof.Machine

/-- `t` is `s` after events of the pins and delays, with answers of the environment taken (42_bus_recovery.md R140). -/
def RecoveredFrom (s t : State) : Prop :=
  ∃ (evs : List Event) (env : Env),
    t = { s with trace := s.trace ++ evs, env := env } ∧ ∀ e ∈ evs, isRecoveryEvent e = true

namespace RecoveredFrom

variable {s t : State}

theorem refl : RecoveredFrom s s := ⟨[], s.env, by simp⟩

/-- One more event of the pins or delays, with or without an answer taken. -/
theorem snoc (h : RecoveredFrom s t) {e : Event} {env : Env} (he : isRecoveryEvent e = true) :
    RecoveredFrom s (emit e { t with env := env }) := by
  obtain ⟨evs, _, rfl, hevs⟩ := h
  exact ⟨evs ++ [e], env, by simp [emit], by simpa [or_imp, forall_and, he] using hevs⟩

theorem drive (h : RecoveredFrom s t) {b : BusId} {pin : Line} {lvl : Level} : RecoveredFrom s (drive b pin lvl t) :=
  h.snoc rfl

theorem configOD (h : RecoveredFrom s t) {b : BusId} {pin : Line} : RecoveredFrom s (configOD b pin t) := h.snoc rfl

theorem delay (h : RecoveredFrom s t) {us : Nat} : RecoveredFrom s (delay us t) := h.snoc rfl

theorem afterReadScl (h : RecoveredFrom s t) {b : BusId} : RecoveredFrom s (afterReadScl b t) := h.snoc rfl

theorem stretchWait (h : RecoveredFrom s t) {b : BusId} (k : Nat) : RecoveredFrom s (stretchWait b k t) := by
  induction k generalizing t with
  | zero => exact h
  | succ k ih =>
    rw [Machine.stretchWait]
    split
    · exact h.afterReadScl
    · exact ih h.afterReadScl.delay

theorem pulses (h : RecoveredFrom s t) {b : BusId} (k n : Nat) : RecoveredFrom s (pulses b k n t) := by
  induction n generalizing t with
  | zero => exact h
  | succ n ih => exact ih (h.stretchWait k).drive.delay.drive.delay

end RecoveredFrom

/-- Unstick appends events of the pins and delays, takes answers, and changes nothing else (R147, R149). -/
theorem unstick_recoveredFrom (b : BusId) (s : State) : RecoveredFrom s (unstick b s) :=
  (RecoveredFrom.refl.drive.drive.configOD.configOD.pulses _ _).drive.delay.drive.delay.drive.delay.drive

/-- Settles O34: the reinitialization of the counted and recovered state, where recovery is events and answers alone. -/
theorem busErrorCountsRecoversReinitializes : Obligations.BusErrorCountsRecoversReinitializes := by
  refine ⟨rfl, rfl, fun s d hi => ?_⟩
  obtain ⟨evs, env, hunstick, hevs⟩ := unstick_recoveredFrom s.cur (countError s)
  refine ⟨evs, env, hunstick, hevs, show execStepBusError s = _ from onStep_eq_next hi ?_⟩
  rw [hunstick]
  rfl

end Sys2Proof.Machine
end

section
/-! PROOFS. The host operations and the checks before them (43_transaction_api.md R160 to R165). -/

namespace Sys2Proof.Machine

/-! ### The checks of R160 -/

theorem busOfNumber_isSome {n : BitVec 4} (h : n.toNat < 2) : (busOfNumber n).isSome = true := by
  revert n; decide

theorem busFree_eq_true_iff (s : State) (b : BusId) :
    busFree s b = true ↔ (s.bus.get b).initialized = false ∨ (s.ts.get b).state = PState.idle.code := by
  simp [busFree, or_comm]

/-- Check 3 of R160: every bus is one that is not initialized or stands in Idle. -/
theorem noCall_eq_true_iff (s : State) :
    noCall s = true ↔ ∀ b, (s.bus.get b).initialized = false ∨ (s.ts.get b).state = PState.idle.code := by
  simp only [noCall, Bool.and_eq_true, busFree_eq_true_iff]
  exact ⟨fun ⟨h0, h1⟩ b => by cases b; exacts [h0, h1], fun h => ⟨h .bus0, h .bus1⟩⟩

theorem noCall_eq_false_of_inFlight {s : State} {b : BusId} (hi : (s.bus.get b).initialized = true)
    (hs : (s.ts.get b).state ≠ PState.idle.code) : noCall s = false := by
  rw [← Bool.not_eq_true, noCall_eq_true_iff]
  intro hfree
  rcases hfree b with hoff | hidle
  · simp [hi] at hoff
  · exact hs hidle

section
variable {n : BitVec 4} {s : State} {b : BusId} (f : BusId → Host.Outcome State Fault Refusal)

theorem onFreeBus_callInFlight (hn : n.toNat < 2) (hc : noCall s = false) :
    onFreeBus n s f = .refused .callInFlight := by
  obtain ⟨b, hb⟩ := Option.isSome_iff_exists.mp (busOfNumber_isSome hn)
  simp [onFreeBus, hb, hc]

theorem onFreeBus_of_noCall (hb : busOfNumber n = some b) (hc : noCall s = true) : onFreeBus n s f = f b := by
  simp [onFreeBus, hb, hc]

theorem onReadyBus_busNotInitialized (hb : busOfNumber n = some b) (hc : noCall s = true)
    (hi : (s.bus.get b).initialized = false) : onReadyBus n s f = .refused .busNotInitialized := by
  simp [onReadyBus, onFreeBus_of_noCall _ hb hc, hi]

theorem onReadyBus_of_initialized (hb : busOfNumber n = some b) (hc : noCall s = true)
    (hi : (s.bus.get b).initialized = true) : onReadyBus n s f = f b := by
  simp [onReadyBus, onFreeBus_of_noCall _ hb hc, hi]

end

/-- An operation that answers behind a check has passed it. -/
theorem check_next {c : Prop} [Decidable c] {u t : State} {r : Refusal}
    (h : (if c then .next u else .refused r : Host.Outcome State Fault Refusal) = .next t) : c ∧ t = u := by
  split at h
  · next hc => exact ⟨hc, by simpa using h.symm⟩
  · exact absurd h (by simp)

/-! ### The two operations without a bus -/

section
variable {s : State}

theorem exec_setOverclock_of_noCall (flag : Bool) (hc : noCall s = true) :
    exec (.setOverclock flag) s = .next { s with overclock := flag } := if_pos hc

theorem exec_setOverclock_callInFlight (flag : Bool) (hc : noCall s = false) :
    exec (.setOverclock flag) s = .refused .callInFlight := if_neg (by simp [hc])

theorem exec_getErrorCount_of_noCall (hc : noCall s = true) :
    exec .getErrorCount s = .next { s with returns := s.returns ++ [.errorCount s.errcnt] } := if_pos hc

theorem exec_getErrorCount_callInFlight (hc : noCall s = false) :
    exec .getErrorCount s = .refused .callInFlight := if_neg (by simp [hc])

end

/-- Settles O18: each operation runs its checks in the rule's order, so the first that fails is its answer. -/
theorem failedChecksAreRefused : Obligations.FailedChecksAreRefused := by
  refine ⟨fun s w buf rest x hcall hbox hd => step_host_of_error hcall hbox hd,
    fun s n a r d buf flag => ⟨?_, ?_, ?_⟩⟩
  · intro hn
    exact ⟨onFreeBus_busOutOfRange hn s _, onFreeBus_busOutOfRange hn s _, onFreeBus_busOutOfRange hn s _⟩
  · rintro ⟨b, hi, hs⟩
    have hc := noCall_eq_false_of_inFlight hi hs
    exact ⟨exec_setOverclock_callInFlight flag hc, exec_getErrorCount_callInFlight hc, fun hn =>
      ⟨onFreeBus_callInFlight _ hn hc, onFreeBus_callInFlight _ hn hc, onFreeBus_callInFlight _ hn hc⟩⟩
  · intro hfree b hb
    have hc := (noCall_eq_true_iff s).mpr hfree
    refine ⟨fun hi => ⟨onReadyBus_busNotInitialized _ hb hc hi, onReadyBus_busNotInitialized _ hb hc hi⟩,
      fun hi hshort => ?_⟩
    exact (onReadyBus_of_initialized _ hb hc hi).trans (if_neg (Nat.not_le.mpr hshort))

/-- Settles O13: with both checks passed INIT_BUS is `Reinit`, whose record is the one stated. -/
theorem initBusReinitializes : Obligations.InitBusReinitializes :=
  ⟨rfl, rfl, rfl, rfl, fun _ _ _ hb hc => onFreeBus_of_noCall _ hb hc⟩

/-- Settles O14: with check 3 passed the flag is all that is written. -/
theorem setOverclockWritesTheFlag : Obligations.SetOverclockWritesTheFlag :=
  fun _ flag hc => exec_setOverclock_of_noCall flag hc

/-- Settles O17: what each operation answers is made of updates that keep the counter. -/
theorem errorCountIsReadOnly : Obligations.ErrorCountIsReadOnly := by
  refine ⟨fun s hc => exec_getErrorCount_of_noCall hc, ?_⟩
  rintro s t i (⟨n, rfl⟩ | ⟨flag, rfl⟩ | ⟨n, a, r, d, rfl⟩ | ⟨n, a, r, l, m, rfl⟩ | rfl) h
  · obtain ⟨b, -, -, hnext⟩ := onFreeBus_next h
    cases hnext
    exact reinit_errcnt b s
  · obtain ⟨-, rfl⟩ := check_next h
    rfl
  · obtain ⟨b, -, -, -, hnext⟩ := onReadyBus_next h
    cases hnext
    simp
  · obtain ⟨b, -, -, -, hnext⟩ := onReadyBus_next h
    obtain ⟨-, rfl⟩ := check_next hnext
    simp
  · obtain ⟨-, rfl⟩ := check_next h
    rfl

end Sys2Proof.Machine
end

section
/-! PROOFS. The words of instructions: the round trip, the step keys and the command words (30_encoding.md R71, R84 to
R91). -/

namespace Sys2Proof

/-! ### The round trip -/

/-- Settles O1: each constructor's fields are read back where the encoder put them. -/
theorem decodeEncodeRoundTrip : Obligations.DecodeEncodeRoundTrip := by
  intro i
  cases i with
  | initBus bus => exact Laws.RoundTrip.initBus bus
  | setOverclock flag => exact Laws.RoundTrip.setOverclock flag
  | write bus addr7 reg data => exact Laws.RoundTrip.write bus addr7 reg data
  | read bus addr7 reg len buf => exact Laws.RoundTrip.read bus addr7 reg len buf
  | getErrorCount => exact Laws.RoundTrip.getErrorCount
  | stepIdle d => exact Laws.RoundTrip.stepIdle d
  | stepStopping d => exact Laws.RoundTrip.stepStopping d
  | stepStarting d => exact Laws.RoundTrip.stepStarting d
  | stepStartingWait d => exact Laws.RoundTrip.stepStartingWait d
  | stepReadAddr d => exact Laws.RoundTrip.stepReadAddr d
  | stepWriteAddr d => exact Laws.RoundTrip.stepWriteAddr d
  | stepAddrWait d => exact Laws.RoundTrip.stepAddrWait d
  | stepRegister d => exact Laws.RoundTrip.stepRegister d
  | stepRegisterWait d => exact Laws.RoundTrip.stepRegisterWait d
  | stepRestarting d => exact Laws.RoundTrip.stepRestarting d
  | stepTransferRead => exact Laws.RoundTrip.stepTransferRead
  | stepTransferWrite => exact Laws.RoundTrip.stepTransferWrite
  | stepNack d => exact Laws.RoundTrip.stepNack d
  | stepBusError d => exact Laws.RoundTrip.stepBusError d
  | configure a n e m => exact Laws.RoundTrip.configure a n e m
  | send v => exact Laws.RoundTrip.send v
  | recv => exact Laws.RoundTrip.recv
  | clear f => exact Laws.RoundTrip.clear f

/-- Settles O8: each word is read as it is written out. -/
theorem specWordsDecode : Obligations.SpecWordsDecode := by
  unfold Obligations.SpecWordsDecode
  decide

/-! ### Step keys -/

theorem isSome_ofCode_iff (c : BitVec 4) : (PState.ofCode c).isSome = true ↔ c.toNat ≤ 12 := by
  revert c; decide

/-- Settles O4: a key holds its state code and direction, and the codes of states are those up to 12. -/
theorem stepKeysSelectTheirRules : Obligations.StepKeysSelectTheirRules := by
  refine ⟨fun d p => ?_, fun k => ?_⟩
  · show decodeKey (stepKey d p.code) = _
    rw [Machine.decodeKey_stepKey, Machine.ofCode_code]
  · rw [← isSome_ofCode_iff]
    show (∃ i, decodeKey k = .ok i) ↔ _
    unfold decodeKey
    split
    · next hp => simp [hp]
    · next hp => simp [hp]

/-! ### The words of the block's commands -/

/-- CONFIGURE's word is its mode bits with the address and the count put in place (R85). -/
theorem configureWord_eq_or (a n : Byte) (e : EndMode) (m : SsMode) :
    configureWord a n e m = configureWord 0 0 e m ||| (a.setWidth 32 <<< 16) ||| (n.setWidth 32 <<< 8) := by
  apply BitVec.eq_of_getLsbD_eq
  intro i hi
  simp only [BitVec.getLsbD_or, BitVec.getLsbD_shiftLeft, BitVec.getLsbD_setWidth, configureWord_getLsbD]
  interval_cases i <;> simp

theorem sendWord_eq_or (v : Byte) : sendWord v = 0x20000000#32 ||| v.setWidth 32 := by
  apply BitVec.eq_of_getLsbD_eq
  intro i hi
  simp only [BitVec.getLsbD_or, BitVec.getLsbD_setWidth, sendWord_getLsbD]
  interval_cases i <;> simp

/-- Settles O6: the fields are in their places, and what stands around them is fixed. -/
theorem commandWordsOfTheBlock : Obligations.CommandWordsOfTheBlock := by
  intro A N v
  refine ⟨?_, ?_, configureWord_eq_or A N _ _, configureWord_eq_or A N _ _, sendWord_eq_or v, rfl, rfl⟩
  · show configureWord A 1 .softEnd .startWrite = _
    rw [configureWord_eq_or, BitVec.or_assoc, BitVec.or_comm (A.setWidth 32 <<< 16), ← BitVec.or_assoc]
    rfl
  · show configureWord A 0 .autoEnd .stop = _
    rw [configureWord_eq_or]
    exact BitVec.or_zero

/-! ### The decoder of command words -/

/-- What the decoder of command words accepts and what it reads there (R85 to R88). -/
theorem decodeCommand_eq_ok_iff (w : Word) (i : Instr) :
    decodeCommand w = .ok i ↔
      (wordTop w = 1 ∧ (w.getLsbD 25 = false ∧ w.extractLsb' 0 8 = 0)
        ∧ .configure (w.extractLsb' 16 8) (w.extractLsb' 8 8) (EndMode.ofBit (w.getLsbD 24))
            (SsMode.ofCode (w.extractLsb' 26 2)) = i)
      ∨ (wordTop w = 2 ∧ w.extractLsb' 8 20 = 0 ∧ .send (w.extractLsb' 0 8) = i)
      ∨ (wordTop w = 3 ∧ w.extractLsb' 0 28 = 0 ∧ .recv = i)
      ∨ (wordTop w = 4 ∧ w.extractLsb' 3 25 = 0 ∧ .clear (w.extractLsb' 0 3) = i) := by
  unfold decodeCommand
  simp only [← BitVec.toNat_inj (x := wordTop w)]
  generalize (wordTop w).toNat = kind
  split
  · split <;> simp_all
  · split <;> simp_all
  · split <;> simp_all
  · split <;> simp_all
  · simp_all

/-- The mask of R85: `kind`, bit 25 and the low byte. -/
theorem and_configureMask_eq_iff (w : Word) :
    w &&& 0xF20000FF#32 = 0x10000000#32 ↔ wordTop w = 1 ∧ w.getLsbD 25 = false ∧ w.extractLsb' 0 8 = 0 := by
  have hbit : w.getLsbD 25 = false ↔ w.extractLsb' 25 1 = 0 := by simp [BitVec.eq_of_getLsbD_eq_iff]
  have hlow := and_fieldMask_eq_iff w (start := 0) (0 : Byte) (by decide)
  have htop := and_hostMask_eq_iff w 1 (start := 25) (len := 1) (by decide) (by decide)
  rw [hbit, ← and_assoc, ← htop, ← hlow]
  exact and_or_eq_iff (v := 0x10000000#32) (m' := fieldMask 0 8) w (fieldMask 28 4 ||| fieldMask 25 1) (by decide)

/-- Settles O7: the mask of each word is `kind` and the fields that must be 0, which is what the decoder tests. -/
theorem commandWordsDecodeByMaskAndMatch : Obligations.CommandWordsDecodeByMaskAndMatch := by
  refine fun w => ⟨?_, ?_, ?_, ?_⟩
  · calc _ ↔ wordTop w = 1 ∧ w.getLsbD 25 = false ∧ w.extractLsb' 0 8 = 0 := by simp [decodeCommand_eq_ok_iff]
      _ ↔ _ := (and_configureMask_eq_iff w).symm
  · calc _ ↔ wordTop w = 2 ∧ w.extractLsb' 8 20 = 0 := by simp [decodeCommand_eq_ok_iff]
      _ ↔ _ := (and_hostMask_eq_iff w 2 (by decide) (by decide)).symm
  · calc _ ↔ wordTop w = 3 ∧ w.extractLsb' 0 28 = 0 := by simp [decodeCommand_eq_ok_iff]
      _ ↔ _ := (and_hostMask_eq_iff w 3 (by decide) (by decide)).symm
  · calc _ ↔ wordTop w = 4 ∧ w.extractLsb' 3 25 = 0 := by simp [decodeCommand_eq_ok_iff]
      _ ↔ _ := (and_hostMask_eq_iff w 4 (by decide) (by decide)).symm

end Sys2Proof
end

section
/-! PROOFS. The step rules as effects on one bus (41_protocol_state_machine.md R104 to R117): what every rule but
BusError appends, draws and writes, said once, branch by branch. -/

namespace Sys2Proof.Machine

/-! ### The effect of a rule -/

/-- The sample leaves the rule of the state waiting (R106, R109, R111, R113, R114). -/
def stillWaiting : PState → Dir → BitVec 6 → Bool
  | .startingWait, _, S => statusBusy S
  | .addrWait, _, S => !statusNack S && !statusTxReady S
  | .registerWait, _, S => !statusNack S && !statusTc S
  | .transfer, .read, S => !statusRxReady S
  | .transfer, .write, S => !statusTxReady S
  | _, _, _ => false

/-- The state of the address phase of a direction (R106). -/
def addrState : Dir → PState
  | .read => .readAddr
  | .write => .writeAddr

/-- The mode Restarting configures for a direction (R112). -/
def dataMode : Dir → SsMode
  | .read => .startRead
  | .write => .noStartStop

/-- The states whose rule can be left waiting are the timed ones (R103). -/
theorem timedCode_of_stillWaiting {p : PState} {d : Dir} {S : BitVec 6} (h : stillWaiting p d S = true) :
    timedCode p.code = true := by
  cases p with
  | startingWait | addrWait | registerWait | transfer => rfl
  | _ => cases h

/-- What the rule that a state and a direction select does on bus `b` holding `t`, with the environment `e`, the sample
`S` and the byte `v` drawn next: the events appended, the environment left and the `TS[b]` written. -/
inductive RuleEffect (b : BusId) (t : TransactionState) (e : Env) (S : BitVec 6) (v : Byte) :
    PState → Dir → List Event → Env → TransactionState → Prop where
  | idle (d : Dir) : RuleEffect b t e S v .idle d [] e t
  | starting (d : Dir) : RuleEffect b t e S v .starting d [] e
      { t with outcome := false, timeout := Config.tLong, state := PState.startingWait.code }
  | busFree (d : Dir) (hS : statusBusy S = false) : RuleEffect b t e S v .startingWait d
      [.poll b t.state S] e.afterStatus { t with state := (addrState t.dir).code }
  | address {p : PState} (d : Dir) (hp : p = .readAddr ∨ p = .writeAddr) : RuleEffect b t e S v p d
      [.cmd b (.configure t.addrW 1 .softEnd .startWrite)] e
      { t with timeout := Config.tLong, state := PState.addrWait.code }
  | nacked {p : PState} (d : Dir) (hp : p = .addrWait ∨ p = .registerWait) (hS : statusNack S = true) :
      RuleEffect b t e S v p d [.poll b t.state S] e.afterStatus { t with state := PState.nack.code }
  | acknowledged (d : Dir) (hN : statusNack S = false) (hS : statusTxReady S = true) :
      RuleEffect b t e S v .addrWait d [.poll b t.state S] e.afterStatus { t with state := PState.register.code }
  | register (d : Dir) : RuleEffect b t e S v .register d [.cmd b (.send t.reg)] e
      { t with timeout := Config.tLong, state := PState.registerWait.code }
  | zeroLength (d : Dir) (hN : statusNack S = false) (hS : statusTc S = true) (h0 : t.remaining = 0) :
      RuleEffect b t e S v .registerWait d
        [.poll b t.state S, .cmd b (.configure t.addrW 0 .autoEnd .stop)] e.afterStatus
        { t with outcome := true, state := PState.stopping.code }
  | dataFollows (d : Dir) (hN : statusNack S = false) (hS : statusTc S = true) (h0 : t.remaining ≠ 0) :
      RuleEffect b t e S v .registerWait d [.poll b t.state S] e.afterStatus
        { t with state := PState.restarting.code }
  | restarting (d : Dir) : RuleEffect b t e S v .restarting d
      [.cmd b (.configure t.addrW t.remaining .autoEnd (dataMode t.dir))] e
      { t with timeout := Config.tLong, state := PState.transfer.code }
  | received (m : Memory) (hS : statusRxReady S = true) (hm : bufWrite t.buf t.cursor.toNat v = some m) :
      RuleEffect b t e S v .transfer .read [.poll b t.state S, .recv b v] e.afterStatus.afterRecv
        (movedByte { t with buf := some m })
  | sent (w : Byte) (hS : statusTxReady S = true) (hw : bufRead t.buf t.cursor.toNat = some w) :
      RuleEffect b t e S v .transfer .write [.poll b t.state S, .cmd b (.send w)] e.afterStatus (movedByte t)
  | nack (d : Dir) : RuleEffect b t e S v .nack d
      [.cmd b (.configure t.addrW 0 .autoEnd .stop), .cmd b (.clear 4)] e { t with state := PState.stopping.code }
  | stopping (d : Dir) : RuleEffect b t e S v .stopping d [.cmd b (.clear 5)] e { t with state := PState.idle.code }
  | failed {p : PState} (d : Dir) (hS : stillWaiting p d S = true) : RuleEffect b t e S v p d
      [.poll b t.state S] e.afterStatus (failedPoll t)

/-- The effect of a rule on the bus a state runs on, with the answers that state draws. -/
def State.Effect (s : State) (p : PState) (d : Dir) (evs : List Event) (env : Env) (x : TransactionState) : Prop :=
  RuleEffect s.cur (s.ts.get s.cur) s.env (statusAnswer s) (recvAnswer (afterPoll s.cur s)) p d evs env x

/-- `s` once a rule on its bus has appended `evs`, left the environment `env` and written `x` to `TS[cur]`. -/
def advance (s : State) (evs : List Event) (env : Env) (x : TransactionState) : State :=
  { s with trace := s.trace ++ evs, env := env, ts := s.ts.set s.cur x }

section
variable (s : State) (evs : List Event) (env : Env) (x : TransactionState)

@[simp] theorem advance_ts : (advance s evs env x).ts = s.ts.set s.cur x := rfl
@[simp] theorem advance_bus : (advance s evs env x).bus = s.bus := rfl
@[simp] theorem advance_overclock : (advance s evs env x).overclock = s.overclock := rfl
@[simp] theorem advance_errcnt : (advance s evs env x).errcnt = s.errcnt := rfl
@[simp] theorem advance_trace : (advance s evs env x).trace = s.trace ++ evs := rfl
@[simp] theorem advance_env : (advance s evs env x).env = env := rfl
@[simp] theorem advance_cur : (advance s evs env x).cur = s.cur := rfl
@[simp] theorem advance_inCall : (advance s evs env x).inCall = s.inCall := rfl
@[simp] theorem advance_inbox : (advance s evs env x).inbox = s.inbox := rfl
@[simp] theorem advance_returns : (advance s evs env x).returns = s.returns := rfl

/-- Two rules on one bus after each other. -/
@[simp] theorem advance_advance (evs' : List Event) (env' : Env) (x' : TransactionState) :
    advance (advance s evs env x) evs' env' x' = advance s (evs ++ evs') env' x' := by
  simp [advance]

/-- A rule that appends, draws and writes nothing. -/
@[simp] theorem advance_self : advance s [] s.env (s.ts.get s.cur) = s := by simp [advance]

end

/-! ### The rules have their effects -/

section
variable {s : State} (hi : (s.bus.get s.cur).initialized = true)
include hi

/-- A poll that leaves the rule waiting counts down (R14), with or without a byte at the cursor. -/
theorem exec_stillWaiting {p : PState} {d : Dir} (hS : stillWaiting p d (statusAnswer s) = true) :
    exec (stepOf p d) s = .next (tick s.cur (afterPoll s.cur s)) := by
  cases p with
  | startingWait =>
    have hb : statusBusy (statusAnswer s) = true := hS
    exact show execStepStartingWait s = _ from onStep_eq_next hi (by simp [hb])
  | addrWait =>
    obtain ⟨hN, hT⟩ : statusNack (statusAnswer s) = false ∧ statusTxReady (statusAnswer s) = false := by
      simpa [stillWaiting] using hS
    exact show execStepAddrWait s = _ from onStep_eq_next hi (by simp [hN, hT])
  | registerWait =>
    obtain ⟨hN, hT⟩ : statusNack (statusAnswer s) = false ∧ statusTc (statusAnswer s) = false := by
      simpa [stillWaiting] using hS
    exact show execStepRegisterWait s = _ from onStep_eq_next hi (by simp [hN, hT])
  | transfer =>
    cases d with
    | read =>
      have hR : statusRxReady (statusAnswer s) = false := by simpa [stillWaiting] using hS
      show execStepTransferRead s = _
      rw [execStepTransferRead, onStep_of_initialized s _ hi]
      dsimp only
      split <;> simp [hR]
    | write =>
      have hT : statusTxReady (statusAnswer s) = false := by simpa [stillWaiting] using hS
      show execStepTransferWrite s = _
      rw [execStepTransferWrite, onStep_of_initialized s _ hi]
      dsimp only
      split <;> simp [hT]
  | _ => cases hS

/-- A rule with an effect answers it. -/
theorem exec_of_effect {p : PState} {d : Dir} {evs : List Event} {env : Env} {x : TransactionState}
    (h : s.Effect p d evs env x) : exec (stepOf p d) s = .next (advance s evs env x) := by
  cases h with
  | idle => exact (idleStepDoesNothing.2.2 s d hi).trans (congrArg _ (advance_self s).symm)
  | starting =>
    rw [show stepOf .starting d = .stepStarting d from rfl, startingClearsTheOutcome.2.2 s d hi]
    simp [advance]
  | busFree _ hS =>
    refine show execStepStartingWait s = _ from onStep_eq_next hi ?_
    rw [setState_afterPoll]
    cases hdir : (s.ts.get s.cur).dir <;> simp [hS, hdir, advance, polled, addrState]
  | address _ hp =>
    rcases hp with rfl | rfl
    · exact addressStepsConfigureOneByte.2.2.2.2 s d _ (.inl rfl) hi
    · exact addressStepsConfigureOneByte.2.2.2.2 s d _ (.inr rfl) hi
  | nacked _ hp hS =>
    rcases hp with rfl | rfl
    · exact show execStepAddrWait s = _ from onStep_eq_next hi (if_pos hS)
    · exact show execStepRegisterWait s = _ from onStep_eq_next hi (if_pos hS)
  | acknowledged _ hN hS => exact show execStepAddrWait s = _ from onStep_eq_next hi (by simp [hN, hS]; rfl)
  | register => exact registerSendsTheRegisterByte.2.2 s d hi
  | zeroLength _ hN hS h0 =>
    refine show execStepRegisterWait s = _ from onStep_eq_next hi ?_
    rw [zeroLengthStop_afterPoll]
    simp [hN, hS, h0, advance, polled]
  | dataFollows _ hN hS h0 =>
    refine show execStepRegisterWait s = _ from onStep_eq_next hi ?_
    rw [if_neg (by simp [hN]), if_pos hS, if_neg h0]
    rfl
  | restarting =>
    refine show execStepRestarting s = _ from onStep_eq_next hi ?_
    rw [enterWait_cmd]
    cases hdir : (s.ts.get s.cur).dir <;> simp [hdir, advance, dataMode]
  | received m hS hm =>
    rw [show stepOf .transfer .read = .stepTransferRead from rfl,
      exec_stepTransferRead_of_bufWrite_eq_some hi hm, if_pos hS, byteMoved_eq_updTs_movedByte, updTs_updTs]
    simp [updTs, afterRecv, afterPoll, emit, advance]
  | sent w hS hw =>
    rw [show stepOf .transfer .write = .stepTransferWrite from rfl,
      exec_stepTransferWrite_of_bufRead_eq_some hi hw, if_pos hS, byteMoved_eq_updTs_movedByte]
    simp [updTs, cmd, afterPoll, emit, advance]
  | nack => exact nackStopsAndClears.2.2 s d hi
  | stopping => exact stoppingGoesIdle.2.2 s d hi
  | failed _ hS => rw [exec_stillWaiting hi hS, tick_afterPoll]; rfl

end

/-! ### Which rules have an effect -/

/-- A ready Transfer with no byte at the cursor: what R53 gives no step. -/
def TransferOutside (s : State) (p : PState) (d : Dir) : Prop :=
  p = .transfer ∧ bufRead (s.ts.get s.cur).buf (s.ts.get s.cur).cursor.toNat = none
    ∧ stillWaiting .transfer d (statusAnswer s) = false

/-- Every rule but BusError has an effect, except where R53 gives it no step. -/
theorem exists_effect_or_outside (s : State) {p : PState} (d : Dir) (hp : p ≠ .busError) :
    (∃ evs env x, s.Effect p d evs env x) ∨ TransferOutside s p d := by
  cases hwait : stillWaiting p d (statusAnswer s) with
  | true => exact .inl ⟨_, _, _, .failed d hwait⟩
  | false =>
    cases p with
    | idle => exact .inl ⟨_, _, _, .idle d⟩
    | stopping => exact .inl ⟨_, _, _, .stopping d⟩
    | starting => exact .inl ⟨_, _, _, .starting d⟩
    | startingWait => exact .inl ⟨_, _, _, .busFree d hwait⟩
    | readAddr => exact .inl ⟨_, _, _, .address d (.inl rfl)⟩
    | writeAddr => exact .inl ⟨_, _, _, .address d (.inr rfl)⟩
    | addrWait =>
      cases hN : statusNack (statusAnswer s) with
      | true => exact .inl ⟨_, _, _, .nacked d (.inl rfl) hN⟩
      | false => exact .inl ⟨_, _, _, .acknowledged d hN (by simpa [stillWaiting, hN] using hwait)⟩
    | register => exact .inl ⟨_, _, _, .register d⟩
    | registerWait =>
      cases hN : statusNack (statusAnswer s) with
      | true => exact .inl ⟨_, _, _, .nacked d (.inr rfl) hN⟩
      | false =>
        have hS : statusTc (statusAnswer s) = true := by simpa [stillWaiting, hN] using hwait
        by_cases h0 : (s.ts.get s.cur).remaining = 0
        · exact .inl ⟨_, _, _, .zeroLength d hN hS h0⟩
        · exact .inl ⟨_, _, _, .dataFollows d hN hS h0⟩
    | restarting => exact .inl ⟨_, _, _, .restarting d⟩
    | transfer =>
      cases hr : bufRead (s.ts.get s.cur).buf (s.ts.get s.cur).cursor.toNat with
      | none => exact .inr ⟨rfl, hr, hwait⟩
      | some w =>
        cases d with
        | write => exact .inl ⟨_, _, _, .sent w (by simpa [stillWaiting] using hwait) hr⟩
        | read =>
          cases hw : bufWrite (s.ts.get s.cur).buf (s.ts.get s.cur).cursor.toNat (recvAnswer (afterPoll s.cur s)) with
          | none => simp [(bufWrite_eq_none_iff _ _ _).mp hw] at hr
          | some m => exact .inl ⟨_, _, _, .received m (by simpa [stillWaiting] using hwait) hw⟩
    | nack => exact .inl ⟨_, _, _, .nack d⟩
    | busError => exact absurd rfl hp

theorem exec_of_transferOutside {s : State} {p : PState} {d : Dir} (hi : (s.bus.get s.cur).initialized = true)
    (h : TransferOutside s p d) : exec (stepOf p d) s = .fault .bufferOutOfRange := by
  obtain ⟨rfl, hr, hwait⟩ := h
  cases d with
  | read =>
    exact (exec_stepTransferRead_of_bufRead_eq_none s hi hr).trans (if_pos (by simpa [stillWaiting] using hwait))
  | write =>
    exact (exec_stepTransferWrite_of_bufRead_eq_none s hi hr).trans (if_pos (by simpa [stillWaiting] using hwait))

end Sys2Proof.Machine
end

section
/-! PROOFS. Everything an instruction can answer, and what each kind of answer leaves unchanged. -/

namespace Sys2Proof.Machine

/-! ### Answers -/

/-- `s` after the BusError rule whose recovery appended `evs` and left the environment `env` (R117, R170). -/
def errorRecovered (s : State) (evs : List Event) (env : Env) : State :=
  { advance s ([.errInc (s.errcnt + 1)] ++ evs ++ [.reinit s.cur (profileOf s.overclock)]) env
      (reinitTs (s.ts.get s.cur)) with
    errcnt := s.errcnt + 1
    bus := s.bus.set s.cur { initialized := true, profile := profileOf s.overclock } }

section
variable (s : State) (evs : List Event) (env : Env)

@[simp] theorem errorRecovered_ts : (errorRecovered s evs env).ts = s.ts.set s.cur (reinitTs (s.ts.get s.cur)) := rfl
@[simp] theorem errorRecovered_bus : (errorRecovered s evs env).bus =
    s.bus.set s.cur { initialized := true, profile := profileOf s.overclock } := rfl
@[simp] theorem errorRecovered_overclock : (errorRecovered s evs env).overclock = s.overclock := rfl
@[simp] theorem errorRecovered_errcnt : (errorRecovered s evs env).errcnt = s.errcnt + 1 := rfl
@[simp] theorem errorRecovered_trace : (errorRecovered s evs env).trace =
    s.trace ++ ([.errInc (s.errcnt + 1)] ++ evs ++ [.reinit s.cur (profileOf s.overclock)]) := rfl
@[simp] theorem errorRecovered_env : (errorRecovered s evs env).env = env := rfl
@[simp] theorem errorRecovered_cur : (errorRecovered s evs env).cur = s.cur := rfl
@[simp] theorem errorRecovered_inCall : (errorRecovered s evs env).inCall = s.inCall := rfl
@[simp] theorem errorRecovered_inbox : (errorRecovered s evs env).inbox = s.inbox := rfl
@[simp] theorem errorRecovered_returns : (errorRecovered s evs env).returns = s.returns := rfl

end

/-- `evs` and `env` are the events and the environment of the recovery that BusError runs in `s`. -/
structure RecoveryOf (s : State) (evs : List Event) (env : Env) : Prop where
  unstick_eq : unstick s.cur (countError s) =
    { countError s with trace := (countError s).trace ++ evs, env := env }
  recovery : ∀ e ∈ evs, isRecoveryEvent e = true

/-- The instruction that presents a command by itself (R84). -/
def commandInstr : Command → Instr
  | .configure a n e m => .configure a n e m
  | .send v => .send v
  | .clear f => .clear f

/-- What each instruction can answer: the effect of a step rule, a recovery, a host operation whose checks passed, a
command of the block. -/
inductive Answer (s : State) : Instr → State → Prop where
  | rule {p : PState} {d : Dir} {evs : List Event} {env : Env} {x : TransactionState}
      (hi : (s.bus.get s.cur).initialized = true) (h : s.Effect p d evs env x) :
      Answer s (stepOf p d) (advance s evs env x)
  | busError {d : Dir} {evs : List Event} {env : Env} (hi : (s.bus.get s.cur).initialized = true)
      (h : RecoveryOf s evs env) : Answer s (.stepBusError d) (errorRecovered s evs env)
  | initBus {n : BitVec 4} {b : BusId} (hb : busOfNumber n = some b) : Answer s (.initBus n) (reinit b s)
  | setOverclock (flag : Bool) : Answer s (.setOverclock flag) { s with overclock := flag }
  | write {n : BitVec 4} {b : BusId} (a : BitVec 7) (r v : Byte) (hb : busOfNumber n = some b)
      (hi : (s.bus.get b).initialized = true) :
      Answer s (.write n a r v) (enterCall b (seedCall b .write a r 1 (memOf [v]) s))
  | read {n : BitVec 4} {b : BusId} (a : BitVec 7) (r : Byte) {len : Byte} {m : Memory} (hb : busOfNumber n = some b)
      (hi : (s.bus.get b).initialized = true) (hlen : len.toNat ≤ m.length) :
      Answer s (.read n a r len m) (enterCall b (seedCall b .read a r len m s))
  | getErrorCount : Answer s .getErrorCount { s with returns := s.returns ++ [.errorCount s.errcnt] }
  | command (c : Command) (hc : everIssued c = true) : Answer s (commandInstr c) (cmd s.cur c s)
  | recv : Answer s .recv (afterRecv s.cur s)

theorem exec_busError {s : State} (d : Dir) (hi : (s.bus.get s.cur).initialized = true) :
    ∃ evs env, RecoveryOf s evs env ∧ exec (.stepBusError d) s = .next (errorRecovered s evs env) := by
  obtain ⟨evs, env, hu, hevs, hexec⟩ := busErrorCountsRecoversReinitializes.2.2 s d hi
  exact ⟨evs, env, ⟨hu, hevs⟩, by rw [hexec]; simp [errorRecovered, advance, reinitTs]⟩

/-- Every step rule is the one that some state and direction select. -/
theorem exists_stepOf_eq {i : Instr} (h : isStepRule i = true) : ∃ p d, i = stepOf p d := by
  cases i with
  | stepIdle d => exact ⟨.idle, d, rfl⟩
  | stepStopping d => exact ⟨.stopping, d, rfl⟩
  | stepStarting d => exact ⟨.starting, d, rfl⟩
  | stepStartingWait d => exact ⟨.startingWait, d, rfl⟩
  | stepReadAddr d => exact ⟨.readAddr, d, rfl⟩
  | stepWriteAddr d => exact ⟨.writeAddr, d, rfl⟩
  | stepAddrWait d => exact ⟨.addrWait, d, rfl⟩
  | stepRegister d => exact ⟨.register, d, rfl⟩
  | stepRegisterWait d => exact ⟨.registerWait, d, rfl⟩
  | stepRestarting d => exact ⟨.restarting, d, rfl⟩
  | stepTransferRead => exact ⟨.transfer, .read, rfl⟩
  | stepTransferWrite => exact ⟨.transfer, .write, rfl⟩
  | stepNack d => exact ⟨.nack, d, rfl⟩
  | stepBusError d => exact ⟨.busError, d, rfl⟩
  | _ => cases h

/-- A step rule needs its bus initialized (R100). -/
theorem exec_stepOf_of_uninitialized {s : State} (p : PState) (d : Dir)
    (hi : (s.bus.get s.cur).initialized = false) : exec (stepOf p d) s = .refused .busNotInitialized := by
  have hoff : ¬ (s.bus.get s.cur).initialized = true := by simp [hi]
  cases p with
  | transfer => cases d <;> exact if_neg hoff
  | _ => exact if_neg hoff

theorem initialized_of_exec_stepOf {s t : State} {p : PState} {d : Dir} (h : exec (stepOf p d) s = .next t) :
    (s.bus.get s.cur).initialized = true := by
  by_contra hi
  rw [exec_stepOf_of_uninitialized p d (Bool.eq_false_iff.mpr hi)] at h
  cases h

/-- What a step rule answers is its effect, or for BusError a recovery. -/
theorem exec_stepOf_next {s t : State} {p : PState} {d : Dir} (h : exec (stepOf p d) s = .next t) :
    (∃ evs env x, s.Effect p d evs env x ∧ t = advance s evs env x)
      ∨ p = .busError ∧ ∃ evs env, RecoveryOf s evs env ∧ t = errorRecovered s evs env := by
  have hi := initialized_of_exec_stepOf h
  by_cases hp : p = .busError
  · subst hp
    obtain ⟨evs, env, hr, hexec⟩ := exec_busError d hi
    exact .inr ⟨rfl, evs, env, hr, by cases h.symm.trans hexec; rfl⟩
  · rcases exists_effect_or_outside s d hp with ⟨evs, env, x, he⟩ | hout
    · exact .inl ⟨evs, env, x, he, by cases h.symm.trans (exec_of_effect hi he); rfl⟩
    · cases h.symm.trans (exec_of_transferOutside hi hout)

/-- Everything an instruction can answer. -/
theorem exec_answer {i : Instr} {s t : State} (h : exec i s = .next t) : Answer s i t := by
  by_cases hrule : isStepRule i = true
  · obtain ⟨p, d, rfl⟩ := exists_stepOf_eq hrule
    have hi := initialized_of_exec_stepOf h
    rcases exec_stepOf_next h with ⟨evs, env, x, he, rfl⟩ | ⟨rfl, evs, env, hr, rfl⟩
    · exact .rule hi he
    · exact .busError hi hr
  · cases i with
    | initBus n =>
      obtain ⟨b, hb, -, hn⟩ := onFreeBus_next h
      cases hn
      exact .initBus hb
    | setOverclock flag =>
      obtain ⟨-, rfl⟩ := check_next h
      exact .setOverclock flag
    | write n a r v =>
      obtain ⟨b, hb, -, hi, hn⟩ := onReadyBus_next h
      cases hn
      exact .write a r v hb hi
    | read n a r len m =>
      obtain ⟨b, hb, -, hi, hn⟩ := onReadyBus_next h
      obtain ⟨hlen, rfl⟩ := check_next hn
      exact .read a r hb hi hlen
    | getErrorCount =>
      obtain ⟨-, rfl⟩ := check_next h
      exact .getErrorCount
    | configure a n e m =>
      obtain ⟨hc, rfl⟩ := issue_next h
      exact .command _ hc
    | send v =>
      obtain ⟨hc, rfl⟩ := issue_next (show issue (.send v) s = _ from h)
      exact .command _ hc
    | recv =>
      cases h
      exact .recv
    | clear f =>
      obtain ⟨hc, rfl⟩ := issue_next h
      exact .command _ hc
    | _ => exact absurd rfl hrule

/-! ### Facts of an effect -/

namespace RuleEffect

variable {b : BusId} {t x : TransactionState} {e env : Env} {S : BitVec 6} {v : Byte} {p : PState} {d : Dir}
  {evs : List Event}

theorem ne_busError (h : RuleEffect b t e S v p d evs env x) : p ≠ .busError := by
  rintro rfl
  cases h with
  | address _ hp => simp at hp
  | nacked _ hp => simp at hp
  | failed _ hS => cases hS

/-- No rule but BusError touches the pins (42_bus_recovery.md R141). -/
theorem no_recovery (h : RuleEffect b t e S v p d evs env x) : ∀ ev ∈ evs, isRecoveryEvent ev = false := by
  cases h <;> simp [isRecoveryEvent]

theorem countP_isPoll (h : RuleEffect b t e S v p d evs env x) :
    evs.countP isPoll = if timedCode p.code = true then 1 else 0 := by
  cases h with
  | address _ hp => rcases hp with rfl | rfl <;> rfl
  | nacked _ hp => rcases hp with rfl | rfl <;> rfl
  | failed _ hS => rw [timedCode_of_stillWaiting hS]; rfl
  | _ => rfl

/-- Only a byte received changes the array, and it changes no byte but the one at the cursor. -/
theorem bufRead_eq (h : RuleEffect b t e S v p d evs env x) {j : Nat}
    (hj : ¬ (p = .transfer ∧ d = .read ∧ j = t.cursor.toNat)) : bufRead x.buf j = bufRead t.buf j := by
  cases h with
  | received m _ hm =>
    have hne : j ≠ t.cursor.toNat := fun h => hj ⟨rfl, rfl, h⟩
    cases hbuf : t.buf with
    | none => simp [hbuf, bufWrite] at hm
    | some m₀ =>
      rw [hbuf] at hm
      obtain ⟨-, rfl⟩ := memWrite_eq_some hm
      exact memRead_memPut_other m₀ v hne
  | _ => rfl

end RuleEffect

/-! ### What every answer leaves unchanged -/

theorem recovery_isPoll {e : Event} (h : isRecoveryEvent e = true) : isPoll e = false := by
  cases e with
  | line | configOD | readSCL | delay => rfl
  | _ => cases h

/-- Settles O42: no answer but a recovery holds an event of the pins. -/
theorem recoveryOnlyInBusError : Obligations.RecoveryOnlyInBusError := by
  intro i s t h hne
  cases exec_answer h with
  | rule _ he => exact ⟨_, rfl, he.no_recovery⟩
  | busError => cases hne
  | initBus => exact ⟨_, rfl, by simp [isRecoveryEvent]⟩
  | command => exact ⟨_, rfl, by simp [isRecoveryEvent]⟩
  | recv => exact ⟨_, rfl, by simp [isRecoveryEvent]⟩
  | _ => exact ⟨[], by simp⟩

theorem isBusError_stepOf {p : PState} (d : Dir) (h : p ≠ .busError) : isBusError (stepOf p d) = false := by
  cases p with
  | transfer => cases d <;> rfl
  | busError => exact absurd rfl h
  | _ => rfl

/-- Settles O48: the counter is written by a recovery, and by no other answer. -/
theorem errorCounterCountsBusErrorsOnly : Obligations.ErrorCounterCountsBusErrorsOnly := by
  intro i s t h
  cases exec_answer h with
  | rule _ he => rw [isBusError_stepOf _ he.ne_busError]; rfl
  | command c => cases c <;> rfl
  | _ => rfl

/-- Settles O49: effects and recoveries write the entry of their bus in each table, and no other answer is a step
rule's. -/
theorem stepsTouchOneBusOnly : Obligations.StepsTouchOneBusOnly := by
  intro i s t hrule h
  obtain ⟨p, d, rfl⟩ := exists_stepOf_eq hrule
  rcases exec_stepOf_next h with ⟨evs, env, x, -, rfl⟩ | ⟨-, evs, env, -, rfl⟩
  · exact ⟨fun b hb => ⟨PerBus.get_set_other _ _ hb, rfl⟩, rfl, rfl, rfl, rfl, rfl⟩
  · exact ⟨fun b hb => ⟨PerBus.get_set_other _ _ hb, PerBus.get_set_other _ _ hb⟩, rfl, rfl, rfl, rfl, rfl⟩

theorem stepOf_transfer_read {p : PState} {d : Dir} (hp : p = .transfer) (hd : d = .read) :
    stepOf p d = .stepTransferRead := by
  subst hp hd; rfl

/-- Settles O50: a command keeps every `TS[b]`, BusError keeps the array it finds, and of the other rules only a
received byte writes, at the cursor. -/
theorem onlyTransferReadWritesTheArray : Obligations.OnlyTransferReadWritesTheArray := by
  intro i s t hkind h b j hj
  cases exec_answer h with
  | rule _ he =>
    by_cases hb : b = s.cur
    · subst hb
      rw [advance_ts, PerBus.get_set_same]
      exact he.bufRead_eq fun ⟨hp, hd, hjc⟩ => hj ⟨stepOf_transfer_read hp hd, rfl, hjc⟩
    · rw [advance_ts, PerBus.get_set_other _ _ hb]
  | busError =>
    by_cases hb : b = s.cur
    · subst hb
      rw [errorRecovered_ts, PerBus.get_set_same]
      rfl
    · rw [errorRecovered_ts, PerBus.get_set_other _ _ hb]
  | command => rfl
  | recv => rfl
  | _ => simp [isStepRule] at hkind

/-- Settles O51: the attributes are written by a recovery and by INIT_BUS, of their bus only. -/
theorem profileIsLatchedAtReinit : Obligations.ProfileIsLatchedAtReinit := by
  intro i s t h b
  cases exec_answer h with
  | busError =>
    by_cases hb : b = s.cur
    · subst hb
      exact .inr ⟨PerBus.get_set_same _ _ _, .inr ⟨rfl, rfl⟩⟩
    · exact .inl (PerBus.get_set_other _ _ hb)
  | initBus hc =>
    next n c =>
    by_cases hb : b = c
    · subst hb
      exact .inr ⟨PerBus.get_set_same _ _ _, .inl ⟨n, rfl, hc⟩⟩
    · exact .inl (PerBus.get_set_other _ _ hb)
  | _ => exact .inl rfl

/-- The instructions of the timed states. -/
def polls (i : Instr) : Prop :=
  (∃ d, i = .stepStartingWait d) ∨ (∃ d, i = .stepAddrWait d) ∨ (∃ d, i = .stepRegisterWait d)
    ∨ i = .stepTransferRead ∨ i = .stepTransferWrite

theorem polls_stepOf_iff (p : PState) (d : Dir) : polls (stepOf p d) ↔ timedCode p.code = true := by
  cases p with
  | transfer => cases d <;> simp [polls, stepOf, timedCode, PState.code]
  | _ => simp [polls, stepOf, timedCode, PState.code]

/-- An answer without a poll, of an instruction of no timed state. -/
theorem noPoll {evs : List Event} {i : Instr} (hevs : evs.countP isPoll = 0) (hi : ¬ polls i) :
    evs.countP isPoll ≤ 1 ∧ (evs.countP isPoll = 1 ↔ polls i) :=
  ⟨by omega, iff_of_false (by omega) hi⟩

/-- Settles O52: an effect polls once in a timed state and else not at all, and no other answer polls. -/
theorem atMostOnePollPerStep : Obligations.AtMostOnePollPerStep := by
  intro i s t h
  cases exec_answer h with
  | rule _ he =>
    refine ⟨_, rfl, ?_, Iff.trans ?_ (polls_stepOf_iff _ _).symm⟩
    · rw [he.countP_isPoll]; split <;> omega
    · rw [he.countP_isPoll]; split <;> simp_all
  | busError _ hr =>
    refine ⟨_, rfl, noPoll ?_ (by simp [polls])⟩
    have hevs := List.countP_eq_zero.mpr fun e he => Bool.eq_false_iff.mp (recovery_isPoll (hr.recovery e he))
    simp [hevs, isPoll]
  | initBus => exact ⟨_, rfl, noPoll rfl (by simp [polls])⟩
  | command c => exact ⟨_, rfl, noPoll rfl (by cases c <;> simp [polls, commandInstr])⟩
  | recv => exact ⟨_, rfl, noPoll rfl (by simp [polls])⟩
  | _ => exact ⟨[], by simp, noPoll rfl (by simp [polls])⟩

end Sys2Proof.Machine
end

section
/-! PROOFS. Steps of a call, and the transition table (41_protocol_state_machine.md R118). -/

namespace Sys2Proof.Machine

/-! ### State codes -/

@[simp] theorem code_inj {p q : PState} : p.code = q.code ↔ p = q :=
  ⟨fun h => Option.some.inj ((ofCode_code p).symm.trans ((congrArg PState.ofCode h).trans (ofCode_code q))),
    fun h => h ▸ rfl⟩

theorem exists_code_eq {c : BitVec 4} (h : c.toNat ≤ 12) : ∃ p : PState, c = p.code := by
  have hsome : (PState.ofCode c).isSome = true := by revert c; decide
  obtain ⟨p, hp⟩ := Option.isSome_iff_exists.mp hsome
  exact ⟨p, ofCode_eq_some hp⟩

/-! ### A poll that fails and a byte that moves, by whether it is the last -/

theorem failedPoll_of_le {t : TransactionState} (h : t.timeout ≤ 1) :
    failedPoll t = { t with timeout := 0, state := PState.busError.code } := by
  simp [failedPoll, h]

theorem failedPoll_of_lt {t : TransactionState} (h : 1 < t.timeout) :
    failedPoll t = { t with timeout := t.timeout - 1 } := by
  simp [failedPoll, Nat.not_le.mpr h]

theorem movedByte_of_last {t : TransactionState} (h : t.remaining - 1 = 0) :
    movedByte t = { t with
      cursor := t.cursor + 1, remaining := 0, timeout := Config.tLong, outcome := true,
      state := PState.stopping.code } := by
  rw [movedByte, if_pos h, if_pos h, h]

theorem movedByte_of_more {t : TransactionState} (h : t.remaining - 1 ≠ 0) :
    movedByte t = { t with cursor := t.cursor + 1, remaining := t.remaining - 1, timeout := Config.tLong } := by
  rw [movedByte, if_neg h, if_neg h]

/-! ### The states and fields an effect leads to -/

namespace RuleEffect

variable {b : BusId} {t x : TransactionState} {e env : Env} {S : BitVec 6} {v : Byte} {p : PState} {d : Dir}
  {evs : List Event}

theorem mem_successors_of_stillWaiting (h : stillWaiting p d S = true) :
    p ∈ successors p ∧ PState.busError ∈ successors p := by
  cases p with
  | startingWait | addrWait | registerWait | transfer => simp [successors]
  | _ => cases h

/-- An effect goes to a state the table lists. -/
theorem mem_successors (h : RuleEffect b t e S v p d evs env x) (ht : t.state = p.code) :
    ∃ q ∈ successors p, x.state = q.code := by
  have hmoved : ∀ y : TransactionState, y.state = PState.transfer.code →
      ∃ q ∈ successors .transfer, (movedByte y).state = q.code := by
    intro y hy
    by_cases h0 : y.remaining - 1 = 0
    · exact ⟨.stopping, by simp [successors], by rw [movedByte_of_last h0]⟩
    · exact ⟨.transfer, by simp [successors], by rw [movedByte_of_more h0]; exact hy⟩
  cases h with
  | idle => exact ⟨.idle, by simp [successors], ht⟩
  | starting => exact ⟨.startingWait, by simp [successors], rfl⟩
  | busFree => exact ⟨addrState t.dir, by cases t.dir <;> simp [successors, addrState], rfl⟩
  | address _ hp => exact ⟨.addrWait, by rcases hp with rfl | rfl <;> simp [successors], rfl⟩
  | nacked _ hp => exact ⟨.nack, by rcases hp with rfl | rfl <;> simp [successors], rfl⟩
  | acknowledged => exact ⟨.register, by simp [successors], rfl⟩
  | register => exact ⟨.registerWait, by simp [successors], rfl⟩
  | zeroLength => exact ⟨.stopping, by simp [successors], rfl⟩
  | dataFollows => exact ⟨.restarting, by simp [successors], rfl⟩
  | restarting => exact ⟨.transfer, by simp [successors], rfl⟩
  | received => exact hmoved _ ht
  | sent => exact hmoved _ ht
  | nack => exact ⟨.stopping, by simp [successors], rfl⟩
  | stopping => exact ⟨.idle, by simp [successors], rfl⟩
  | failed _ hS =>
    obtain ⟨hstay, hfail⟩ := mem_successors_of_stillWaiting hS
    by_cases h1 : t.timeout ≤ 1
    · exact ⟨.busError, hfail, by rw [failedPoll_of_le h1]⟩
    · exact ⟨p, hstay, by rw [failedPoll_of_lt (Nat.not_le.mp h1)]; exact ht⟩

/-- Only Stopping, and Idle itself, goes to Idle by an effect. -/
theorem eq_idle_or_stopping (h : RuleEffect b t e S v p d evs env x) (ht : t.state = p.code)
    (hx : x.state = PState.idle.code) : p = .idle ∨ p = .stopping := by
  obtain ⟨q, hq, hxq⟩ := h.mem_successors ht
  obtain rfl : q = .idle := code_inj.mp (hxq.symm.trans hx)
  have hne := h.ne_busError
  revert hq hne
  cases p <;> simp [successors]

theorem stopping_inv (h : RuleEffect b t e S v .stopping d evs env x) :
    evs = [.cmd b (.clear 5)] ∧ env = e ∧ x = { t with state := PState.idle.code } := by
  cases h with
  | stopping => exact ⟨rfl, rfl, rfl⟩
  | address _ hp => simp at hp
  | nacked _ hp => simp at hp
  | failed _ hS => cases hS

theorem idle_inv (h : RuleEffect b t e S v .idle d evs env x) : evs = [] ∧ env = e ∧ x = t := by
  cases h with
  | idle => exact ⟨rfl, rfl, rfl⟩
  | address _ hp => simp at hp
  | nacked _ hp => simp at hp
  | failed _ hS => cases hS

theorem addrW_eq (h : RuleEffect b t e S v p d evs env x) : x.addrW = t.addrW := by cases h <;> rfl

theorem dir_eq (h : RuleEffect b t e S v p d evs env x) : x.dir = t.dir := by cases h <;> rfl

theorem timeout_le (h : RuleEffect b t e S v p d evs env x) (ht : t.timeout ≤ Config.tLong) :
    x.timeout ≤ Config.tLong := by
  cases h with
  | starting | address | register | restarting | received | sent => exact Nat.le_refl _
  | failed => exact Nat.le_trans (Nat.sub_le _ _) ht
  | _ => exact ht

/-- The array stays the one of the call, with the same indices. -/
theorem exists_buf (h : RuleEffect b t e S v p d evs env x) {m : Memory} (hm : t.buf = some m) :
    ∃ m', x.buf = some m' ∧ m'.length = m.length ∧ m'.wf = m.wf := by
  cases h with
  | received m' _ hw =>
    rw [hm] at hw
    obtain ⟨-, rfl⟩ := memWrite_eq_some hw
    exact ⟨_, rfl, memPut_length _ _ _, memPut_wf _ _ _⟩
  | _ => exact ⟨m, hm, rfl, rfl⟩

end RuleEffect

/-- Settles O47: an effect goes to a listed state, and BusError to Idle. -/
theorem transitionsFollowTheTable : Obligations.TransitionsFollowTheTable := by
  intro s t p _ hp h
  rcases exec_stepOf_next h with ⟨evs, env, x, he, rfl⟩ | ⟨rfl, evs, env, -, rfl⟩
  · rw [advance_ts, PerBus.get_set_same]
    exact he.mem_successors hp
  · exact ⟨.idle, by simp [successors], by rw [errorRecovered_ts, PerBus.get_set_same]; rfl⟩

/-! ### A step of a call -/

/-- In a call a step is the rule of the state its bus holds, then the loop test (R100, R166). -/
theorem step_inCall {s : State} {p : PState} (hcall : s.inCall = true) (hi : (s.bus.get s.cur).initialized = true)
    (hp : (s.ts.get s.cur).state = p.code) : step s = settle (exec (stepOf p (s.ts.get s.cur).dir) s) := by
  have hf : fetch s = .run (stepOf p (s.ts.get s.cur).dir) s := by
    rw [fetch, if_pos hcall, fetchKey, if_pos hi, fetchDecoded, decode, decodeKey_stepKey, hp, ofCode_code]
  rw [step, hf]

theorem step_inCall_next {s t : State} (hcall : s.inCall = true) (h : step s = .next t) :
    ∃ p v, (s.bus.get s.cur).initialized = true ∧ (s.ts.get s.cur).state = p.code
      ∧ exec (stepOf p (s.ts.get s.cur).dir) s = .next v ∧ t = loopTest v := by
  have hfetch : fetch s = fetchKey s.cur s := by simp [fetch, hcall]
  rcases step_next h with ⟨hf, -⟩ | ⟨i, u, v, hf, hv, rfl⟩
  · rw [hfetch, fetchKey] at hf
    split at hf
    · unfold fetchDecoded at hf
      split at hf <;> cases hf
    · cases hf
  · obtain ⟨hi, hd, rfl⟩ := fetchKey_run (hfetch.symm.trans hf)
    rw [decodeKey_stepKey] at hd
    cases hp : PState.ofCode (s.ts.get s.cur).state with
    | none => rw [hp] at hd; cases hd
    | some p =>
      rw [hp] at hd
      cases hd
      exact ⟨p, v, hi, ofCode_eq_some hp, hv, rfl⟩

theorem loopTest_of_busy {s : State} (h : (s.ts.get s.cur).state ≠ PState.idle.code) : loopTest s = s := by
  simp [loopTest, h]

theorem loopTest_of_idle {s : State} (hcall : s.inCall = true) (h : (s.ts.get s.cur).state = PState.idle.code) :
    loopTest s = finishCall s.cur s := by
  simp [loopTest, hcall, h]

theorem loopTest_of_not_inCall {s : State} (hcall : s.inCall = false) : loopTest s = s := by
  simp [loopTest, hcall]

/-- What a step of a call that is under way does: its rule leaves the call in flight, or the call returns from Stopping,
or it returns from BusError. -/
inductive CallStep (s : State) : State → Prop where
  | goesOn {p : PState} {evs : List Event} {env : Env} {x : TransactionState}
      (hp : (s.ts.get s.cur).state = p.code) (he : s.Effect p (s.ts.get s.cur).dir evs env x)
      (hx : x.state ≠ PState.idle.code) : CallStep s (advance s evs env x)
  | returned (hp : (s.ts.get s.cur).state = PState.stopping.code) :
      CallStep s (finishCall s.cur (advance s [.cmd s.cur (.clear 5)] s.env
        { s.ts.get s.cur with state := PState.idle.code }))
  | recovered {evs : List Event} {env : Env} (hp : (s.ts.get s.cur).state = PState.busError.code)
      (hr : RecoveryOf s evs env) : CallStep s (finishCall s.cur (errorRecovered s evs env))

theorem callStep_of_step {s t : State} (hcall : s.inCall = true)
    (hbusy : (s.ts.get s.cur).state ≠ PState.idle.code) (h : step s = .next t) : CallStep s t := by
  obtain ⟨p, v, -, hp, hv, rfl⟩ := step_inCall_next hcall h
  rcases exec_stepOf_next hv with ⟨evs, env, x, he, rfl⟩ | ⟨rfl, evs, env, hr, rfl⟩
  · by_cases hx : x.state = PState.idle.code
    · rw [loopTest_of_idle (s := advance s evs env x) hcall (by simpa using hx)]
      rcases he.eq_idle_or_stopping hp hx with rfl | rfl
      · exact absurd hp hbusy
      · obtain ⟨rfl, rfl, rfl⟩ := he.stopping_inv
        exact .returned hp
    · rw [loopTest_of_busy (by simpa using hx)]
      exact .goesOn hp he hx
  · rw [loopTest_of_idle (s := errorRecovered s evs env) hcall (by simp [reinitTs])]
    exact .recovered hp hr

end Sys2Proof.Machine
end

section
/-! PROOFS. The standing invariant (10_state.md R41) through every step. -/

namespace Sys2Proof.Machine

/-! ### The fields in range -/

theorem TsOk.withoutBuf {t : TransactionState} (h : TsOk t) : TsOk { t with buf := none } where
  legal := h.legal
  countdown := h.countdown
  address := h.address
  array := fun _ hm => by cases hm

theorem TsOk.reinit {t : TransactionState} (h : TsOk t) : TsOk (reinitTs t) where
  legal := code_toNat_le .idle
  countdown := Nat.zero_le _
  address := show (0 : Byte).getLsbD 0 = false by decide
  array := h.array

theorem TsOk.setIdle {t : TransactionState} (h : TsOk t) : TsOk { t with state := PState.idle.code } where
  legal := code_toNat_le .idle
  countdown := h.countdown
  address := h.address
  array := h.array

/-- `TS[b]` as WRITE and READ seed it (43_transaction_api.md R161, R162). -/
def seededTs (t : TransactionState) (d : Dir) (a : BitVec 7) (r n : Byte) (m : Memory) : TransactionState :=
  { t with
    addrW := onWire a, dir := d, reg := r, remaining := n, cursor := 0, buf := some m,
    state := PState.starting.code }

theorem TsOk.seeded {t : TransactionState} (h : TsOk t) {d : Dir} {a : BitVec 7} {r n : Byte} {m : Memory}
    (hm : m.wf = true) : TsOk (seededTs t d a r n m) where
  legal := code_toNat_le .starting
  countdown := h.countdown
  address := (onWireAddressIsShifted.1 a).2.2.1
  array := fun _ hm' => by cases hm'; exact hm

theorem byte_le_lenMax (n : Byte) : n.toNat ≤ Config.lenMax := Nat.le_of_lt_succ n.isLt

theorem CallOk.seeded (t : TransactionState) {d : Dir} {a : BitVec 7} {r n : Byte} {m : Memory}
    (hm : n.toNat ≤ m.length) : CallOk (seededTs t d a r n m) where
  room := ⟨m, rfl, (Nat.zero_add _).trans_le hm⟩
  count := (Nat.zero_add _).trans_le (byte_le_lenMax n)
  counting := fun h => by cases h
  data := fun h => by simp [seededTs] at h
  outcome := fun _ => .inl rfl

/-- Out of Starting and Stopping a call in flight has no outcome yet. -/
theorem CallOk.outcome_eq_false {t : TransactionState} (h : CallOk t) (hs : t.state ≠ PState.starting.code)
    (hp : t.state ≠ PState.stopping.code) : t.outcome = false := by
  by_contra ho
  rcases h.outcome (Bool.eq_true_of_not_eq_false ho) with h' | ⟨h', -⟩
  · exact hs h'
  · exact hp h'

/-- The counts of a byte moved, while a byte remains (10_state.md R26, R27). -/
theorem movedByte_counts {t : TransactionState} (h1 : 1 ≤ t.remaining.toNat)
    (h : t.cursor.toNat + t.remaining.toNat ≤ Config.lenMax) :
    (t.cursor + 1).toNat = t.cursor.toNat + 1 ∧ (t.remaining - 1).toNat = t.remaining.toNat - 1 := by
  unfold Config.lenMax at h
  constructor <;> bv_omega

/-! ### A call in order -/

section
variable {t : TransactionState} (h : CallOk t)
include h

/-- A write of `TS[b]` that goes on with the call: the counts and the array stay. -/
theorem CallOk.goto {x : TransactionState} (hbuf : x.buf = t.buf) (hcur : x.cursor = t.cursor)
    (hrem : x.remaining = t.remaining) (hcount : timedCode x.state = true → 1 ≤ x.timeout)
    (hdata : x.state = PState.transfer.code ∨ x.state = PState.restarting.code → 1 ≤ x.remaining.toNat)
    (hout : x.outcome = true → x.state = PState.stopping.code ∧ x.remaining = 0) : CallOk x where
  room := by rw [hbuf, hcur, hrem]; exact h.room
  count := by rw [hcur, hrem]; exact h.count
  counting := hcount
  data := hdata
  outcome := fun ho => .inr (hout ho)

theorem CallOk.movedByte (ht : t.state = PState.transfer.code) : CallOk (movedByte t) := by
  obtain ⟨m, hm, hroom⟩ := h.room
  have h1 := h.data (.inl ht)
  obtain ⟨hcur, hrem⟩ := movedByte_counts h1 h.count
  have hout := h.outcome_eq_false (by simp [ht]) (by simp [ht])
  have hcount := h.count
  have hsum : (t.cursor + 1).toNat + (t.remaining - 1).toNat = t.cursor.toNat + t.remaining.toNat := by omega
  have hT : timedCode t.state = true → 1 ≤ Config.tLong := fun _ => Nat.le_add_left 1 _
  by_cases h0 : t.remaining - 1 = 0
  · rw [movedByte_of_last h0, ← h0]
    exact ⟨⟨m, hm, hsum.trans_le hroom⟩, hsum.trans_le hcount, by simp [timedCode], by simp, fun _ => .inr ⟨rfl, h0⟩⟩
  · have h1' : 1 ≤ (t.remaining - 1).toNat := Nat.one_le_iff_ne_zero.mpr fun hz => h0 (BitVec.eq_of_toNat_eq hz)
    rw [movedByte_of_more h0]
    exact ⟨⟨m, hm, hsum.trans_le hroom⟩, hsum.trans_le hcount, hT, fun _ => h1', by simp [hout]⟩

end

/-- The array replaced by one of the same length. -/
theorem CallOk.setBuf {t : TransactionState} (h : CallOk t) {m m' : Memory} (hm : t.buf = some m)
    (hlen : m'.length = m.length) : CallOk { t with buf := some m' } where
  room := by
    obtain ⟨m₀, hm₀, hroom⟩ := h.room
    cases hm.symm.trans hm₀
    exact ⟨m', rfl, hlen ▸ hroom⟩
  count := h.count
  counting := h.counting
  data := h.data
  outcome := h.outcome

/-- An effect that does not end the call leaves it in order. -/
theorem RuleEffect.callOk {b : BusId} {t x : TransactionState} {e env : Env} {S : BitVec 6} {v : Byte} {p : PState}
    {d : Dir} {evs : List Event} (he : RuleEffect b t e S v p d evs env x) (ht : t.state = p.code) (h : CallOk t)
    (hx : x.state ≠ PState.idle.code) : CallOk x := by
  have hT : 1 ≤ Config.tLong := Nat.le_add_left 1 _
  have hout : p ≠ .starting → p ≠ .stopping → t.outcome = false := fun h1 h2 =>
    h.outcome_eq_false (by simpa [ht] using h1) (by simpa [ht] using h2)
  cases he with
  | idle => exact absurd ht hx
  | starting => exact h.goto rfl rfl rfl (fun _ => hT) (by simp) (by simp)
  | busFree =>
    cases hd : t.dir with
    | read => exact h.goto rfl rfl rfl (by simp [timedCode, addrState]) (by simp [addrState]) (by simp [hout])
    | write => exact h.goto rfl rfl rfl (by simp [timedCode, addrState]) (by simp [addrState]) (by simp [hout])
  | address _ hp =>
    have := hout (by rintro rfl; simp at hp) (by rintro rfl; simp at hp)
    exact h.goto rfl rfl rfl (fun _ => hT) (by simp) (by simp [this])
  | nacked _ hp =>
    have := hout (by rintro rfl; simp at hp) (by rintro rfl; simp at hp)
    exact h.goto rfl rfl rfl (by simp [timedCode]) (by simp) (by simp [this])
  | acknowledged => exact h.goto rfl rfl rfl (by simp [timedCode]) (by simp) (by simp [hout])
  | register => exact h.goto rfl rfl rfl (fun _ => hT) (by simp) (by simp [hout])
  | zeroLength _ _ _ h0 => exact h.goto rfl rfl rfl (by simp [timedCode]) (by simp) (fun _ => ⟨rfl, h0⟩)
  | dataFollows _ _ _ h0 =>
    have h1 : 1 ≤ t.remaining.toNat := Nat.one_le_iff_ne_zero.mpr fun hz => h0 (BitVec.eq_of_toNat_eq hz)
    exact h.goto rfl rfl rfl (by simp [timedCode]) (fun _ => h1) (by simp [hout])
  | restarting => exact h.goto rfl rfl rfl (fun _ => hT) (fun _ => h.data (.inr ht)) (by simp [hout])
  | received m' _ hw =>
    obtain ⟨m, hm, -⟩ := h.room
    rw [hm] at hw
    obtain ⟨-, rfl⟩ := memWrite_eq_some hw
    exact (h.setBuf hm (memPut_length _ _ _)).movedByte ht
  | sent => exact h.movedByte ht
  | nack => exact h.goto rfl rfl rfl (by simp [timedCode]) (by simp) (by simp [hout])
  | stopping => exact absurd rfl hx
  | failed _ hS =>
    have hne : p ≠ .starting ∧ p ≠ .stopping := by constructor <;> (rintro rfl; cases hS)
    have hfalse := hout hne.1 hne.2
    by_cases h1 : t.timeout ≤ 1
    · rw [failedPoll_of_le h1]
      exact h.goto rfl rfl rfl (by simp [timedCode]) (by simp) (by simp [hfalse])
    · rw [failedPoll_of_lt (Nat.not_le.mp h1)]
      exact h.goto rfl rfl rfl (fun _ => Nat.le_sub_one_of_lt (Nat.not_le.mp h1)) h.data (by simp [hfalse])

theorem RuleEffect.tsOk {b : BusId} {t x : TransactionState} {e env : Env} {S : BitVec 6} {v : Byte} {p : PState}
    {d : Dir} {evs : List Event} (he : RuleEffect b t e S v p d evs env x) (ht : t.state = p.code) (h : TsOk t)
    {m : Memory} (hm : t.buf = some m) : TsOk x where
  legal := by
    obtain ⟨q, -, hq⟩ := he.mem_successors ht
    exact hq ▸ code_toNat_le q
  countdown := he.timeout_le h.countdown
  address := he.addrW_eq ▸ h.address
  array := fun m₁ hm₁ => by
    obtain ⟨m₂, hm₂, -, hwf⟩ := he.exists_buf hm
    cases hm₁.symm.trans hm₂
    exact hwf.trans (h.array m hm)

end Sys2Proof.Machine
end

section
/-! PROOFS. The standing invariant (10_state.md R41) at power-on and through every step. -/

namespace Sys2Proof.Machine

/-! ### What is fetched out of a call -/

theorem isStepRule_stepOf (p : PState) (d : Dir) : isStepRule (stepOf p d) = true := by
  cases p with
  | transfer => cases d <;> rfl
  | _ => rfl

/-- Different states have different rules, because they have different keys (R71). -/
theorem stepOf_inj {p q : PState} {d d' : Dir} (h : stepOf p d = stepOf q d') : p = q := by
  have hkey : ∀ (p : PState) (d : Dir), encode (stepOf p d) = .key (stepKey d p.code) := by
    intro p d
    cases p with
    | transfer => cases d <;> rfl
    | _ => rfl
  have he := congrArg encode h
  rw [hkey, hkey, Encoded.key.injEq] at he
  have hc := congrArg (BitVec.extractLsb' 0 4) he
  rw [stepKey_state, stepKey_state] at hc
  exact code_inj.mp hc

/-- The words of the caller and of the command port spell no step rule, and an array beside one is an array. -/
theorem decodeHost_ok {w : Word} {buf : Memory} {i : Instr} (h : decodeHost w buf = .ok i) :
    isStepRule i = false ∧ i.wf = true := by
  rcases (decodeHost_eq_ok_iff w buf i).mp h with
    ⟨-, -, rfl⟩ | ⟨-, -, rfl⟩ | ⟨-, -, rfl⟩ | ⟨-, -, hwf, rfl⟩ | ⟨-, -, rfl⟩
  · exact ⟨rfl, rfl⟩
  · exact ⟨rfl, rfl⟩
  · exact ⟨rfl, rfl⟩
  · exact ⟨rfl, hwf⟩
  · exact ⟨rfl, rfl⟩

theorem decodeCommand_ok {w : Word} {i : Instr} (h : decodeCommand w = .ok i) :
    isStepRule i = false ∧ i.wf = true := by
  rcases (decodeCommand_eq_ok_iff w i).mp h with ⟨-, -, rfl⟩ | ⟨-, -, rfl⟩ | ⟨-, -, rfl⟩ | ⟨-, -, rfl⟩ <;>
    exact ⟨rfl, rfl⟩

theorem wf_stepOf (p : PState) (d : Dir) : (stepOf p d).wf = true := by
  cases p with
  | transfer => cases d <;> rfl
  | _ => rfl

/-- Out of a call a fetch takes one request and picks a bus; it finds a well-formed instruction, and a step rule only
where the bus stands at it. -/
theorem fetch_outOfCall {s u : State} {i : Instr} (hcall : s.inCall = false) (h : fetch s = .run i u) :
    (∃ rest b, u = { s with inbox := rest, cur := b }) ∧ i.wf = true
      ∧ ∀ p d, i = stepOf p d → (u.ts.get u.cur).state = p.code := by
  have hnone : isStepRule i = false → ∀ p d, i = stepOf p d → (u.ts.get u.cur).state = p.code := by
    rintro hi p d rfl
    rw [isStepRule_stepOf] at hi
    cases hi
  rw [fetch, if_neg (by simp [hcall])] at h
  split at h
  · cases h
  · next r rest _ =>
    cases r with
    | host w buf =>
      obtain ⟨hd, rfl⟩ := fetchDecoded_run h
      obtain ⟨hi, hwf⟩ := decodeHost_ok hd
      exact ⟨⟨rest, s.cur, rfl⟩, hwf, hnone hi⟩
    | command b w =>
      obtain ⟨hd, rfl⟩ := fetchDecoded_run h
      obtain ⟨hi, hwf⟩ := decodeCommand_ok hd
      exact ⟨⟨rest, b, rfl⟩, hwf, hnone hi⟩
    | invoke b =>
      obtain ⟨-, hd, rfl⟩ := fetchKey_run h
      rw [decodeKey_stepKey] at hd
      refine ⟨⟨rest, b, rfl⟩, ?_⟩
      split at hd
      · next q hq =>
        cases hd
        refine ⟨wf_stepOf _ _, fun p d hpd => ?_⟩
        rw [← stepOf_inj hpd]
        exact ofCode_eq_some hq
      · cases hd

/-! ### The shapes of the invariant -/

theorem powerOn_quiet : Quiet .powerOn := ⟨rfl, rfl⟩

/-- Settles O43: both buses stand at their power-on values, in range and quiet. -/
theorem invariantAtReset : Obligations.InvariantAtReset where
  buses := fun b => by cases b <;> exact powerOn_tsOk
  inFlight := fun hc => by cases hc
  quiet := fun _ b => by cases b <;> exact powerOn_quiet

/-- The invariant in a state with no call in flight. -/
theorem standingInv_of_quiet {s : State} (hcall : s.inCall = false) (hb : ∀ b, TsOk (s.ts.get b))
    (hq : ∀ b, Quiet (s.ts.get b)) : StandingInv s where
  buses := hb
  inFlight := fun hc => by rw [hcall] at hc; cases hc
  quiet := fun _ => hq

/-- The invariant in a state whose call is in flight on `cur`, holding `x`. -/
theorem standingInv_of_call {s : State} {x : TransactionState} (hcall : s.inCall = true)
    (hi : (s.bus.get s.cur).initialized = true) (hx : s.ts.get s.cur = x) (hok : TsOk x) (hcallOk : CallOk x)
    (hbusy : x.state ≠ PState.idle.code) (hother : ∀ b, b ≠ s.cur → TsOk (s.ts.get b) ∧ Quiet (s.ts.get b)) :
    StandingInv s where
  buses := fun b => by
    by_cases hb : b = s.cur
    · rw [hb, hx]; exact hok
    · exact (hother b hb).1
  inFlight := fun _ => ⟨hi, by rw [hx]; exact hbusy, by rw [hx]; exact hcallOk, fun b hb => (hother b hb).2⟩
  quiet := fun hc => by rw [hcall] at hc; cases hc

/-- The return leaves the machine out of a call, every bus quiet. -/
theorem standingInv_finishCall {s : State} (hok : TsOk (s.ts.get s.cur))
    (hidle : (s.ts.get s.cur).state = PState.idle.code)
    (hother : ∀ b, b ≠ s.cur → TsOk (s.ts.get b) ∧ Quiet (s.ts.get b)) : StandingInv (finishCall s.cur s) := by
  refine standingInv_of_quiet rfl (fun b => ?_) fun b => ?_
  · by_cases hb : b = s.cur
    · subst hb; simpa using hok.withoutBuf
    · simpa [hb] using (hother b hb).1
  · by_cases hb : b = s.cur
    · subst hb; simpa [Quiet] using hidle
    · simpa [hb] using (hother b hb).2

/-! ### A step of a call -/

namespace StandingInv

variable {s t : State}

theorem initialized (h : StandingInv s) (hcall : s.inCall = true) : (s.bus.get s.cur).initialized = true :=
  (h.inFlight hcall).1

theorem busy (h : StandingInv s) (hcall : s.inCall = true) : (s.ts.get s.cur).state ≠ PState.idle.code :=
  (h.inFlight hcall).2.1

theorem callOk (h : StandingInv s) (hcall : s.inCall = true) : CallOk (s.ts.get s.cur) := (h.inFlight hcall).2.2.1

theorem others (h : StandingInv s) (hcall : s.inCall = true) (b : BusId) (hb : b ≠ s.cur) :
    TsOk (s.ts.get b) ∧ Quiet (s.ts.get b) := ⟨h.buses b, (h.inFlight hcall).2.2.2 b hb⟩

theorem callStep (h : StandingInv s) (hcall : s.inCall = true) (ht : step s = .next t) : CallStep s t :=
  callStep_of_step hcall (h.busy hcall) ht

theorem exists_state (h : StandingInv s) (b : BusId) : ∃ p : PState, (s.ts.get b).state = p.code :=
  exists_code_eq (h.buses b).legal

/-- Out of a call every `TS[b]` is Idle, so none is in the way of an operation (R160 item 3). -/
theorem noCall (h : StandingInv s) (hcall : s.inCall = false) : noCall s = true :=
  (noCall_eq_true_iff s).mpr fun b => .inr (h.quiet hcall b).1

/-- An effect of a call's rule that does not end the call. -/
theorem advance (h : StandingInv s) (hcall : s.inCall = true) {p : PState} {d : Dir} {evs : List Event} {env : Env}
    {x : TransactionState} (hp : (s.ts.get s.cur).state = p.code) (he : s.Effect p d evs env x)
    (hx : x.state ≠ PState.idle.code) : StandingInv (advance s evs env x) := by
  obtain ⟨m, hm, -⟩ := (h.callOk hcall).room
  refine standingInv_of_call hcall (h.initialized hcall) (PerBus.get_set_same _ _ _)
    (he.tsOk hp (h.buses s.cur) hm) (he.callOk hp (h.callOk hcall) hx) hx fun b hb => ?_
  simpa [show b ≠ s.cur from hb] using h.others hcall b hb

theorem of_callStep (h : StandingInv s) (hcall : s.inCall = true) (ht : CallStep s t) : StandingInv t := by
  cases ht with
  | goesOn hp he hx => exact h.advance hcall hp he hx
  | returned hp =>
    refine standingInv_finishCall (s := Machine.advance s _ _ _) ?_ ?_ fun b hb => ?_
    · simpa using (h.buses s.cur).setIdle
    · simp
    · simpa [show b ≠ s.cur from hb] using h.others hcall b hb
  | @recovered evs env hp hr =>
    refine standingInv_finishCall (s := errorRecovered s evs env) ?_ ?_ fun b hb => ?_
    · simpa using (h.buses s.cur).reinit
    · simp [reinitTs]
    · simpa [show b ≠ s.cur from hb] using h.others hcall b hb

/-! ### An instruction out of a call -/

/-- A host operation that seeds a call. -/
theorem seeded (h : StandingInv s) (hcall : s.inCall = false) {b : BusId} (hi : (s.bus.get b).initialized = true)
    (d : Dir) (a : BitVec 7) (r : Byte) {n : Byte} {m : Memory} (hwf : m.wf = true) (hlen : n.toNat ≤ m.length) :
    StandingInv (enterCall b (seedCall b d a r n m s)) := by
  refine standingInv_of_call rfl hi (PerBus.get_set_same _ _ _) ((h.buses b).seeded hwf) (CallOk.seeded _ hlen)
    (by simp) fun c hc => ?_
  simpa [show c ≠ b from hc] using And.intro (h.buses c) (h.quiet hcall c)

theorem of_reinit (h : StandingInv s) (hcall : s.inCall = false) (b : BusId) : StandingInv (reinit b s) := by
  refine standingInv_of_quiet hcall (fun c => ?_) fun c => ?_
  · by_cases hc : c = b
    · subst hc; simpa using (h.buses c).reinit
    · simpa [hc] using h.buses c
  · by_cases hc : c = b
    · subst hc; simpa [Quiet, reinitTs] using (h.quiet hcall c).2
    · simpa [hc] using h.quiet hcall c

/-- The requests waiting and the bus a state runs on do not matter out of a call. -/
theorem fetched (h : StandingInv s) (hcall : s.inCall = false) (rest : List Request) (b : BusId) :
    StandingInv { s with inbox := rest, cur := b } :=
  standingInv_of_quiet hcall h.buses (h.quiet hcall)

/-- An instruction fetched out of a call keeps the invariant, and the drive loop has nothing to do after it. -/
theorem of_answer {i : Instr} (h : StandingInv s) (hcall : s.inCall = false) (ht : Answer s i t) (hwf : i.wf = true)
    (hkey : ∀ p d, i = stepOf p d → (s.ts.get s.cur).state = p.code) : StandingInv t ∧ loopTest t = t := by
  have hidle : ∀ p d, i = stepOf p d → p = .idle := fun p d hp =>
    code_inj.mp ((hkey p d hp).symm.trans (h.quiet hcall s.cur).1)
  have hkept : ∀ {u : State}, u.inCall = s.inCall → u.ts = s.ts → StandingInv u ∧ loopTest u = u :=
    fun {u} hu hts => ⟨standingInv_of_quiet (hu.trans hcall) (hts ▸ h.buses) (hts ▸ h.quiet hcall),
      loopTest_of_not_inCall (hu.trans hcall)⟩
  cases ht with
  | rule _ he =>
    obtain rfl := hidle _ _ rfl
    obtain ⟨rfl, rfl, rfl⟩ := he.idle_inv
    rw [advance_self]
    exact hkept rfl rfl
  | @busError d => cases hidle .busError d rfl
  | @initBus n b => exact ⟨h.of_reinit hcall b, loopTest_of_not_inCall hcall⟩
  | @write n b a r v hb hi =>
    exact ⟨h.seeded hcall hi .write a r (memOf_wf [v]) (Nat.le_refl 1), loopTest_of_busy (by simp)⟩
  | @read n b a r len m hb hi hlen => exact ⟨h.seeded hcall hi .read a r hwf hlen, loopTest_of_busy (by simp)⟩
  | setOverclock => exact hkept rfl rfl
  | getErrorCount => exact hkept rfl rfl
  | command => exact hkept rfl rfl
  | recv => exact hkept rfl rfl

end StandingInv

/-- Settles O44: in a call the rule of the state the bus holds keeps its call in order or ends it; out of a call an
instruction finds every bus quiet. -/
theorem stepKeepsInvariant : Obligations.StepKeepsInvariant := by
  intro s t h ht
  cases hcall : s.inCall with
  | true => exact h.of_callStep hcall (h.callStep hcall ht)
  | false =>
    rcases step_next ht with ⟨-, rfl⟩ | ⟨i, u, v, hf, hv, rfl⟩
    · exact h
    · obtain ⟨⟨rest, b, rfl⟩, hwf, hkey⟩ := fetch_outOfCall hcall hf
      obtain ⟨hinv, hloop⟩ := (h.fetched hcall rest b).of_answer hcall (exec_answer hv) hwf hkey
      rwa [hloop]

/-! ### Steps that answer -/

/-- In a call in order the cursor of a Transfer is inside the array (20_memory.md R51, R52). -/
theorem not_transferOutside {s : State} {p : PState} {d : Dir} (hok : TsOk (s.ts.get s.cur))
    (hcallOk : CallOk (s.ts.get s.cur)) (hp : (s.ts.get s.cur).state = p.code) : ¬ TransferOutside s p d := by
  rintro ⟨rfl, hr, -⟩
  obtain ⟨m, hm, hroom⟩ := hcallOk.room
  have h1 := hcallOk.data (.inl hp)
  have hsome := (memRead_isSome_iff m (s.ts.get s.cur).cursor.toNat (hok.array m hm)).mpr (by omega)
  rw [(bufRead_eq_none_iff _ _).mp hr m hm] at hsome
  cases hsome

/-- Under the invariant the next step of a call is the one its state lists, and it is there. -/
theorem exists_callStep {s : State} (h : StandingInv s) (hcall : s.inCall = true) :
    ∃ t, step s = .next t ∧ CallStep s t := by
  obtain ⟨p, hp⟩ := h.exists_state s.cur
  have hi := h.initialized hcall
  have hstep := step_inCall hcall hi hp
  have hnext : ∃ v, exec (stepOf p (s.ts.get s.cur).dir) s = .next v := by
    by_cases hb : p = .busError
    · subst hb
      obtain ⟨evs, env, -, hexec⟩ := exec_busError (s.ts.get s.cur).dir hi
      exact ⟨_, hexec⟩
    · rcases exists_effect_or_outside s (s.ts.get s.cur).dir hb with ⟨evs, env, x, he⟩ | hout
      · exact ⟨_, exec_of_effect hi he⟩
      · exact absurd hout (not_transferOutside (h.buses s.cur) (h.callOk hcall) hp)
  obtain ⟨v, hv⟩ := hnext
  rw [hv] at hstep
  exact ⟨_, hstep, h.callStep hcall hstep⟩

theorem check_ne_fault {c : Prop} [Decidable c] {u : State} {x : Refusal} {r : Fault} :
    (if c then .next u else .refused x : Host.Outcome State Fault Refusal) ≠ .fault r := by
  split <;> simp

theorem onFreeBus_ne_fault {n : BitVec 4} {s : State} {f : BusId → Host.Outcome State Fault Refusal} {r : Fault}
    (h : ∀ b, f b ≠ .fault r) : onFreeBus n s f ≠ .fault r := by
  unfold onFreeBus
  split
  · simp
  · split
    · exact h _
    · simp

theorem onReadyBus_ne_fault {n : BitVec 4} {s : State} {f : BusId → Host.Outcome State Fault Refusal} {r : Fault}
    (h : ∀ b, f b ≠ .fault r) : onReadyBus n s f ≠ .fault r :=
  onFreeBus_ne_fault fun b => by
    split
    · exact h b
    · simp

/-- Only a Transfer at a cursor outside the array is stuck (R53). -/
theorem exec_fault {i : Instr} {s : State} {r : Fault} (h : exec i s = .fault r) :
    ∃ p d, i = stepOf p d ∧ TransferOutside s p d := by
  by_cases hrule : isStepRule i = true
  · obtain ⟨p, d, rfl⟩ := exists_stepOf_eq hrule
    by_cases hi : (s.bus.get s.cur).initialized = true
    · by_cases hb : p = .busError
      · subst hb
        obtain ⟨evs, env, -, hexec⟩ := exec_busError d hi
        cases h.symm.trans hexec
      · rcases exists_effect_or_outside s d hb with ⟨evs, env, x, he⟩ | hout
        · cases h.symm.trans (exec_of_effect hi he)
        · exact ⟨p, d, rfl, hout⟩
    · cases h.symm.trans (exec_stepOf_of_uninitialized p d (Bool.eq_false_iff.mpr hi))
  · cases i with
    | initBus n => exact absurd h (onFreeBus_ne_fault fun _ => by simp)
    | setOverclock flag => exact absurd h check_ne_fault
    | write n a r v => exact absurd h (onReadyBus_ne_fault fun _ => by simp)
    | read n a r len m => exact absurd h (onReadyBus_ne_fault fun _ => check_ne_fault)
    | getErrorCount => exact absurd h check_ne_fault
    | configure a n e m => exact absurd h check_ne_fault
    | send v => cases h
    | recv => cases h
    | clear f => exact absurd h check_ne_fault
    | _ => exact absurd rfl hrule

theorem step_fault {s : State} {r : Fault} (h : step s = .fault r) :
    ∃ i u, fetch s = .run i u ∧ exec i u = .fault r := by
  unfold step at h
  split at h
  · cases h
  · cases h
  · next i u hf =>
    refine ⟨i, u, hf, ?_⟩
    generalize exec i u = o at h
    cases o with
    | fault => exact h
    | next => cases h
    | refused => cases h

/-- Settles O45: in a call the cursor is inside the array; out of one the only rule fetched is Idle's. -/
theorem callsNeverGetStuck : Obligations.CallsNeverGetStuck := by
  intro s h
  refine ⟨fun r hr => ?_, fun hcall => ?_⟩
  · cases hcall : s.inCall with
    | true =>
      obtain ⟨t, ht, -⟩ := exists_callStep h hcall
      cases hr.symm.trans ht
    | false =>
      obtain ⟨i, u, hf, hu⟩ := step_fault hr
      obtain ⟨⟨rest, b, rfl⟩, -, hkey⟩ := fetch_outOfCall hcall hf
      obtain ⟨p, d, rfl, rfl, -⟩ := exec_fault hu
      have hidle : (s.ts.get b).state = PState.idle.code := (h.quiet hcall b).1
      cases code_inj.mp ((hkey _ d rfl).symm.trans hidle)
  · obtain ⟨t, ht, -⟩ := exists_callStep h hcall
    exact ⟨t, ht⟩

/-! ### The counts and the return of a call -/

/-- An effect of a call moves the cursor by what it takes off the remaining count. -/
theorem RuleEffect.cursor_add_remaining {b : BusId} {t x : TransactionState} {e env : Env} {S : BitVec 6} {v : Byte}
    {p : PState} {d : Dir} {evs : List Event} (he : RuleEffect b t e S v p d evs env x) (ht : t.state = p.code)
    (h : CallOk t) : x.cursor.toNat + x.remaining.toNat = t.cursor.toNat + t.remaining.toNat := by
  have hmoved : p = .transfer →
      (t.cursor + 1).toNat + (t.remaining - 1).toNat = t.cursor.toNat + t.remaining.toNat := by
    rintro rfl
    have h1 := h.data (.inl ht)
    obtain ⟨hcur, hrem⟩ := movedByte_counts h1 h.count
    omega
  cases he with
  | received => exact hmoved rfl
  | sent => exact hmoved rfl
  | _ => rfl

/-- Settles O46: a step after which the call runs on is an effect on its bus. -/
theorem cursorPlusRemainingIsKept : Obligations.CursorPlusRemainingIsKept := by
  intro s t h hcall ht hrun
  cases h.callStep hcall ht with
  | goesOn hp he _ =>
    rw [advance_ts, PerBus.get_set_same]
    exact ⟨rfl, he.cursor_add_remaining hp (h.callOk hcall)⟩
  | returned => cases hrun
  | recovered => cases hrun

/-- Settles O54: Stopping hands back the outcome it holds, and BusError the one its reinitialization cleared. -/
theorem returnValueIsTheOutcome : Obligations.ReturnValueIsTheOutcome := by
  intro s t h hcall ht hret
  cases h.callStep hcall ht with
  | goesOn => rw [advance_inCall, hcall] at hret; cases hret
  | returned hp =>
    refine ⟨(s.ts.get s.cur).outcome, by simp, by simp, by simp, ?_, by simp [hp]⟩
    rw [finishCall_trace, List.getLast?_concat, advance_ts, PerBus.get_set_same]
  | recovered hp =>
    refine ⟨false, by simp [reinitTs], by simp, by simp [reinitTs], ?_, by simp [hp]⟩
    rw [finishCall_trace, List.getLast?_concat, errorRecovered_ts, PerBus.get_set_same]
    rfl

/-! ### The bound on a call (R121) -/

/-- The most steps a call still takes at a state, with a countdown and a count remaining. -/
def stepsLeftAt (p : PState) (timeout n : Nat) : Nat :=
  let T := Config.tLong
  match p with
  | .starting => 5 + 3 * T + n * T
  | .startingWait => timeout + 4 + 2 * T + n * T
  | .readAddr | .writeAddr => 4 + 2 * T + n * T
  | .addrWait => timeout + 3 + T + n * T
  | .register => 3 + T + n * T
  | .registerWait => timeout + 2 + n * T
  | .restarting => 2 + n * T
  | .transfer => timeout + 1 + (n - 1) * T
  | .nack => 2
  | .stopping | .busError => 1
  | .idle => 0

/-- The most steps a call that holds `t` still takes. -/
def stepsLeft (t : TransactionState) : Nat :=
  match PState.ofCode t.state with
  | some p => stepsLeftAt p t.timeout t.remaining.toNat
  | none => 0

theorem stepsLeft_eq {t : TransactionState} {p : PState} (h : t.state = p.code) :
    stepsLeft t = stepsLeftAt p t.timeout t.remaining.toNat := by
  rw [stepsLeft, h, ofCode_code]

theorem stepsLeftAt_pos {p : PState} (hp : p ≠ .idle) (timeout n : Nat) : 1 ≤ stepsLeftAt p timeout n := by
  cases p with
  | idle => exact absurd rfl hp
  | _ => simp only [stepsLeftAt]; omega

theorem stepsLeftAt_starting (timeout n : Nat) : stepsLeftAt .starting timeout n = callBound n := by
  simp only [stepsLeftAt, callBound, Nat.add_mul]
  omega

/-- A failed poll leaves one poll less, or the one step of BusError. -/
theorem stepsLeft_failedPoll_lt {t : TransactionState} {p : PState} {d : Dir} {S : BitVec 6}
    (ht : t.state = p.code) (hS : stillWaiting p d S = true) (h1 : 1 ≤ t.timeout) :
    stepsLeft (failedPoll t) < stepsLeft t := by
  rw [stepsLeft_eq ht]
  by_cases hlast : t.timeout ≤ 1
  · rw [failedPoll_of_le hlast, stepsLeft_eq (p := .busError) rfl]
    cases p with
    | startingWait | addrWait | registerWait | transfer => simp only [stepsLeftAt]; omega
    | _ => cases hS
  · rw [failedPoll_of_lt (Nat.not_le.mp hlast), stepsLeft_eq (t := { t with timeout := t.timeout - 1 }) ht]
    cases p with
    | startingWait | addrWait | registerWait | transfer => simp only [stepsLeftAt]; omega
    | _ => cases hS

/-- A byte moved leaves the polls of the bytes after it, or the one step of Stopping. -/
theorem stepsLeft_movedByte_lt {t : TransactionState} (ht : t.state = PState.transfer.code) (h : CallOk t)
    (h1 : 1 ≤ t.timeout) : stepsLeft (movedByte t) < stepsLeft t := by
  have hrem := h.data (.inl ht)
  obtain ⟨-, hless⟩ := movedByte_counts hrem h.count
  rw [stepsLeft_eq ht]
  by_cases h0 : t.remaining - 1 = 0
  · rw [movedByte_of_last h0, stepsLeft_eq (p := .stopping) rfl]
    simp only [stepsLeftAt]
    omega
  · have hmore : (t.remaining - 1).toNat ≠ 0 := fun hz => h0 (BitVec.eq_of_toNat_eq hz)
    obtain ⟨k, hk⟩ : ∃ k, t.remaining.toNat = k + 2 := ⟨t.remaining.toNat - 2, by omega⟩
    have hstate : (movedByte t).state = PState.transfer.code := by rw [movedByte_of_more h0]; exact ht
    rw [stepsLeft_eq hstate, movedByte_of_more h0]
    simp only [stepsLeftAt, hless, hk, Nat.add_sub_cancel, Nat.reduceSubDiff, Nat.add_mul]
    omega

/-- An effect of a call leaves it fewer steps. -/
theorem RuleEffect.stepsLeft_lt {b : BusId} {t x : TransactionState} {e env : Env} {S : BitVec 6} {v : Byte}
    {p : PState} {d : Dir} {evs : List Event} (he : RuleEffect b t e S v p d evs env x) (ht : t.state = p.code)
    (h : CallOk t) (hp : p ≠ .idle) : stepsLeft x < stepsLeft t := by
  have htimed : timedCode p.code = true → 1 ≤ t.timeout := ht ▸ h.counting
  have hgoto : ∀ (q : PState) (y : TransactionState), y.state = q.code →
      stepsLeftAt q y.timeout y.remaining.toNat < stepsLeftAt p t.timeout t.remaining.toNat →
      stepsLeft y < stepsLeft t := by
    intro q y hy hlt
    rwa [stepsLeft_eq hy, stepsLeft_eq ht]
  cases he with
  | idle => exact absurd rfl hp
  | starting => exact hgoto .startingWait _ rfl (by simp only [stepsLeftAt]; omega)
  | busFree =>
    have := htimed rfl
    exact hgoto (addrState t.dir) _ rfl (by cases t.dir <;> (simp only [addrState, stepsLeftAt]; omega))
  | address _ hp =>
    refine hgoto .addrWait _ rfl ?_
    rcases hp with rfl | rfl <;> (simp only [stepsLeftAt]; omega)
  | nacked _ hp =>
    refine hgoto .nack _ rfl ?_
    rcases hp with rfl | rfl
    · have := htimed rfl
      simp only [stepsLeftAt]; omega
    · have := htimed rfl
      simp only [stepsLeftAt]; omega
  | acknowledged =>
    have := htimed rfl
    exact hgoto .register _ rfl (by simp only [stepsLeftAt]; omega)
  | register => exact hgoto .registerWait _ rfl (by simp only [stepsLeftAt]; omega)
  | zeroLength =>
    have := htimed rfl
    exact hgoto .stopping _ rfl (by simp only [stepsLeftAt]; omega)
  | dataFollows =>
    have := htimed rfl
    exact hgoto .restarting _ rfl (by simp only [stepsLeftAt]; omega)
  | restarting =>
    have hrem := h.data (.inr ht)
    obtain ⟨k, hk⟩ : ∃ k, t.remaining.toNat = k + 1 := ⟨t.remaining.toNat - 1, by omega⟩
    refine hgoto .transfer _ rfl ?_
    simp only [stepsLeftAt, hk, Nat.add_sub_cancel, Nat.add_mul]
    omega
  | received m' _ hw =>
    obtain ⟨m, hm, -⟩ := h.room
    rw [hm] at hw
    obtain ⟨-, rfl⟩ := memWrite_eq_some hw
    exact stepsLeft_movedByte_lt ht (h.setBuf hm (memPut_length _ _ _)) (htimed rfl)
  | sent => exact stepsLeft_movedByte_lt ht h (htimed rfl)
  | nack => exact hgoto .stopping _ rfl (by simp only [stepsLeftAt]; omega)
  | stopping => exact hgoto .idle _ rfl (by simp only [stepsLeftAt]; omega)
  | failed _ hS =>
    exact stepsLeft_failedPoll_lt ht hS (htimed (timedCode_of_stillWaiting hS))

theorem driveLoop_of_not_inCall {s : State} (h : s.inCall = false) (n : Nat) : driveLoop n s = .next s := by
  cases n with
  | zero => rfl
  | succ n => rw [driveLoop, if_neg (by simp [h])]

theorem driveLoop_succ {s t : State} (hcall : s.inCall = true) (h : step s = .next t) (n : Nat) :
    driveLoop (n + 1) s = driveLoop n t := by
  rw [driveLoop, if_pos hcall, h]

/-- What a call leaves behind once it has returned. -/
structure ReturnedFrom (s t : State) : Prop where
  ended : t.inCall = false
  returned : ∃ r m, t.returns = s.returns ++ [.call s.cur r (some m)]
  counted : t.errcnt = s.errcnt ∨ t.errcnt = s.errcnt + 1
  waiting : t.inbox = s.inbox

/-- A call returns in as many steps as it has left. -/
theorem driveLoop_returns {n : Nat} {s : State} (h : StandingInv s) (hcall : s.inCall = true)
    (hn : stepsLeft (s.ts.get s.cur) ≤ n) : ∃ t, driveLoop n s = .next t ∧ ReturnedFrom s t := by
  induction n generalizing s with
  | zero =>
    obtain ⟨p, hp⟩ := h.exists_state s.cur
    have hbusy : p ≠ .idle := fun h0 => h.busy hcall (h0 ▸ hp)
    have hpos := stepsLeftAt_pos hbusy (s.ts.get s.cur).timeout (s.ts.get s.cur).remaining.toNat
    rw [← stepsLeft_eq hp] at hpos
    omega
  | succ n ih =>
    obtain ⟨t, ht, hstep⟩ := exists_callStep h hcall
    rw [driveLoop_succ hcall ht]
    obtain ⟨m, hm, -⟩ := (h.callOk hcall).room
    cases hstep with
    | @goesOn p evs env x hp he hx =>
      have hbusy : p ≠ .idle := fun h0 => h.busy hcall (h0 ▸ hp)
      have hlt := he.stepsLeft_lt hp (h.callOk hcall) hbusy
      obtain ⟨u, hu, hret⟩ := ih (s := advance s evs env x) (h.advance hcall hp he hx) hcall
        (by rw [advance_cur, advance_ts, PerBus.get_set_same]; omega)
      exact ⟨u, hu, hret.ended, hret.returned, hret.counted, hret.waiting⟩
    | returned =>
      exact ⟨_, driveLoop_of_not_inCall rfl n, rfl, ⟨_, m, by simp [hm]; rfl⟩, .inl rfl, rfl⟩
    | recovered =>
      exact ⟨_, driveLoop_of_not_inCall rfl n, rfl, ⟨_, m, by simp [hm, reinitTs]; rfl⟩, .inr rfl, rfl⟩

/-- Settles O55: the steps a call has left at Starting are the bound, and every step of it leaves fewer. -/
theorem everyCallReturns : Obligations.EveryCallReturns := by
  intro s h hcall hs
  obtain ⟨t, ht, hret⟩ := driveLoop_returns (n := callBound (s.ts.get s.cur).remaining.toNat) h hcall
    (by rw [stepsLeft_eq hs, stepsLeftAt_starting])
  exact ⟨t, ht, hret.ended, hret.returned, hret.counted, hret.waiting⟩

end Sys2Proof.Machine
end

section
/-! PROOFS. What a step fetches and runs, and the instructions that need no invariant (30_encoding.md R73 to R91,
43_transaction_api.md R160 to R166). -/

namespace Sys2Proof.Machine

/-! ### Fetch and step -/

theorem step_of_fetch {s u : State} {i : Instr} (h : fetch s = .run i u) : step s = settle (exec i u) := by
  rw [step, h]

theorem fetchDecoded_of_ok {e : Encoded} {s : State} {i : Instr} (h : decode e = .ok i) :
    fetchDecoded e s = .run i s := by
  rw [fetchDecoded, h]

theorem fetchKey_of_ok {b : BusId} {s : State} {i : Instr} (hi : (s.bus.get b).initialized = true)
    (h : decode (.key (stepKey (s.ts.get b).dir (s.ts.get b).state)) = .ok i) :
    fetchKey b s = .run i { s with cur := b } := by
  rw [fetchKey, if_pos hi, fetchDecoded_of_ok h]

/-- Out of a call the oldest request is fetched. -/
theorem fetch_request {s : State} {r : Request} {rest : List Request} (hcall : s.inCall = false)
    (hbox : s.inbox = r :: rest) : fetch s = fetchRequest r { s with inbox := rest } := by
  simp [fetch, hcall, hbox]

/-- Settles O10: the fetch of each kind, and the loop test written out. -/
theorem stepRunsTheDecodedInstruction : Obligations.StepRunsTheDecodedInstruction := by
  refine fun s i => ⟨⟨fun hcall hi hd => ?_, fun hcall => ⟨?_, ?_, ?_, ?_⟩⟩, fun v => ?_, fun _ => rfl, fun _ => rfl⟩
  · exact step_of_fetch (by rw [fetch, if_pos hcall]; exact fetchKey_of_ok hi hd)
  · intro w buf rest hbox hd
    exact step_of_fetch ((fetch_request hcall hbox).trans (fetchDecoded_of_ok hd))
  · intro b rest hbox hi hd
    exact step_of_fetch ((fetch_request hcall hbox).trans (fetchKey_of_ok (s := { s with inbox := rest }) hi hd))
  · intro b w rest hbox hd
    exact step_of_fetch ((fetch_request hcall hbox).trans (fetchDecoded_of_ok hd))
  · intro hbox
    have hf : fetch s = .nothing := by simp [fetch, hcall, hbox]
    rw [step, hf]
  · show Host.Outcome.next (loopTest v) = _
    by_cases h : v.inCall = true ∧ (v.ts.get v.cur).state = PState.idle.code
    · rw [loopTest_of_idle h.1 h.2, if_pos h]
      rfl
    · rw [if_neg h, loopTest, if_neg (by simpa using h)]

/-! ### A placed word of the opcode table -/

theorem decodeTableWord_eq_some {nbits w : Nat} {i : Instr} (h : decodeTableWord nbits w = some i) :
    ∃ e, tableEncoded nbits w = some e ∧ decode e = .ok i := by
  unfold decodeTableWord at h
  split at h
  · next e he =>
    split at h
    · next hd => cases h; exact ⟨e, he, hd⟩
    · cases h
  · cases h

/-- A row of one byte is a step key, any other a host or command word. -/
theorem tableEncoded_eq_some {nbits w : Nat} {e : Encoded} (h : tableEncoded nbits w = some e) :
    (nbits ≤ 8 ∧ ∃ k, e = .key k) ∨ (8 < nbits ∧ ∀ k, e ≠ .key k) := by
  unfold tableEncoded at h
  split at h
  · next hn =>
    split at h
    · cases h; exact .inl ⟨hn, _, rfl⟩
    · cases h
  · next hn =>
    refine .inr ⟨Nat.not_le.mp hn, ?_⟩
    split at h
    · dsimp only at h
      split at h
      · cases h; simp
      · cases h; simp
    · cases h

/-- A request placed ahead of all others is the one fetched, and the others wait as before. -/
theorem fetch_askNext (r : Request) (s : State) : fetch (askNext r s) = fetchRequest r { s with inCall := false } :=
  rfl

/-- Bus 0 made to stand at a key stands at the key. -/
theorem atKey_key (k : BitVec 5) (s : State) :
    decode (.key (stepKey ((atKey k s).ts.get .bus0).dir ((atKey k s).ts.get .bus0).state)) = decode (.key k) := by
  show decodeKey (stepKey ((atKey k s).ts.get .bus0).dir ((atKey k s).ts.get .bus0).state) = decodeKey k
  rw [decodeKey_stepKey, decodeKey]
  rfl

theorem fetch_placeNext_key {k : BitVec 5} {i : Instr} (s : State) (hd : decode (.key k) = .ok i) :
    fetch (placeNext (.key k) s) = .run i { atKey k s with inCall := false, cur := .bus0 } :=
  (fetch_askNext _ _).trans (fetchKey_of_ok (s := { atKey k s with inCall := false }) rfl ((atKey_key k s).trans hd))

/-- A placed host or command word runs in the given state, out of a call. -/
theorem fetch_placeNext_word {e : Encoded} {i : Instr} (s : State) (he : ∀ k, e ≠ .key k) (hd : decode e = .ok i) :
    fetch (placeNext e s) = .run i { s with inCall := false } := by
  cases e with
  | host w m => exact (fetch_askNext _ _).trans (fetchDecoded_of_ok hd)
  | command w => exact (fetch_askNext _ _).trans (fetchDecoded_of_ok hd)
  | key k => exact absurd rfl (he k)

/-- Settles O11: a word of either width is placed as a request that is fetched next and decodes to the instruction. -/
theorem placedTableWordIsFetched : Obligations.PlacedTableWordIsFetched := by
  intro s nbits w i h
  obtain ⟨e, he, hd⟩ := decodeTableWord_eq_some h
  have hplace : s.withFetchWord nbits w = placeNext e s := by rw [State.withFetchWord, he]
  rw [hplace]
  rcases tableEncoded_eq_some he with ⟨hn, k, rfl⟩ | ⟨hn, hword⟩
  · have hf := fetch_placeNext_key s hd
    exact ⟨_, hf, step_of_fetch hf, rfl, rfl, rfl, rfl, rfl, rfl, rfl, rfl, rfl,
      fun _ => ⟨rfl, rfl, (atKey_key k s).trans hd⟩, fun h8 => absurd hn (Nat.not_le.mpr h8)⟩
  · have hf := fetch_placeNext_word s hword hd
    exact ⟨_, hf, step_of_fetch hf, rfl, rfl, rfl, rfl, rfl, rfl, rfl, rfl, rfl,
      fun h8 => absurd h8 (Nat.not_le.mpr hn), fun _ => rfl⟩

/-! ### Power-on, and the host operations that seed a call -/

/-- Settles O12: the values of `State.reset`, bus by bus. -/
theorem powerOnValues : Obligations.PowerOnValues :=
  ⟨fun b => by cases b <;> exact ⟨rfl, rfl⟩, rfl, rfl, rfl⟩

/-- Settles O15: behind the checks WRITE is the seeding of the descriptor. -/
theorem writeSeedsTheCall : Obligations.WriteSeedsTheCall := fun _ _ _ _ _ _ hb hc hi =>
  onReadyBus_of_initialized _ hb hc hi

/-- Settles O16: behind the checks, the length of the array the last of them, READ is the seeding of the descriptor. -/
theorem readSeedsTheCall : Obligations.ReadSeedsTheCall := fun _ _ _ _ _ _ _ hb hc hi hlen =>
  (onReadyBus_of_initialized _ hb hc hi).trans (if_pos hlen)

/-! ### Step rules and commands -/

/-- Settles O19: each query is its bit. -/
theorem statusBitsAreNumbered : Obligations.StatusBitsAreNumbered := fun _ => ⟨rfl, rfl, rfl, rfl, rfl, rfl⟩

/-- Settles O20: every step rule is guarded by its bus. -/
theorem stepNeedsInitializedBus : Obligations.StepNeedsInitializedBus := by
  intro s i hrule hi
  obtain ⟨p, d, rfl⟩ := exists_stepOf_eq hrule
  exact exec_stepOf_of_uninitialized p d hi

/-- Settles O35: each of the forms is one the block issues, so it is appended. -/
theorem issuedCommandsAreRecorded : Obligations.IssuedCommandsAreRecorded := fun _ _ _ _ =>
  ⟨rfl, rfl, rfl, rfl, rfl, rfl, rfl, rfl⟩

theorem issue_of_neverIssued {c : Command} (s : State) (h : ¬ everIssued c = true) :
    issue c s = .refused .commandNeverIssued := if_neg h

/-- Settles O36: a command of none of the listed forms is never issued. -/
theorem otherCommandsAreRefused : Obligations.OtherCommandsAreRefused := by
  refine fun s => ⟨fun a n e m h1 h2 h3 h4 => ?_, fun f h4 h5 => ?_⟩
  · refine issue_of_neverIssued (c := .configure a n e m) s ?_
    rw [everIssued_eq_true_iff]
    rintro (⟨A, h⟩ | ⟨A, h⟩ | ⟨A, N, h⟩ | ⟨A, N, h⟩ | ⟨v, h⟩ | h | h) <;> cases h
    · exact h1 ⟨rfl, rfl, rfl⟩
    · exact h2 ⟨rfl, rfl, rfl⟩
    · exact h3 ⟨rfl, rfl⟩
    · exact h4 ⟨rfl, rfl⟩
  · refine issue_of_neverIssued (c := .clear f) s ?_
    rw [everIssued_eq_true_iff]
    rintro (⟨A, h⟩ | ⟨A, h⟩ | ⟨A, N, h⟩ | ⟨A, N, h⟩ | ⟨v, h⟩ | h | h) <;> cases h
    · exact h4 rfl
    · exact h5 rfl

end Sys2Proof.Machine
end

section
/-! PROOFS. The trace of BusRecovery (42_bus_recovery.md R142 to R150): which events a stretch wait can append, and how
Unstick is put together from them. -/

namespace Sys2Proof.Machine

/-! ### The pieces of Unstick -/

/-- The events a stretch wait with a budget of `k` polls can append (R143). -/
inductive StretchEvents (b : BusId) : Nat → List Event → Prop where
  | forced : StretchEvents b 0 []
  | high {k : Nat} : StretchEvents b (k + 1) [.readSCL b .hi]
  | low {k : Nat} {w : List Event} (h : StretchEvents b k w) :
      StretchEvents b (k + 1) ([.readSCL b .lo, .delay Config.pollUs] ++ w)

/-- The events of the preparation (R142). -/
def prepareEvents (b : BusId) : List Event :=
  [.line b .scl .hi, .line b .sda .hi, .configOD b .scl, .configOD b .sda]

/-- The events of one clock pulse (R144). -/
def pulseEvents (b : BusId) : List Event :=
  [.line b .scl .lo, .delay Config.delayUs, .line b .scl .hi, .delay Config.delayUs]

/-- The events of the manual STOP (R146). -/
def stopEvents (b : BusId) : List Event :=
  [.line b .scl .lo, .delay Config.delayUs, .line b .sda .lo, .delay Config.delayUs, .line b .scl .hi,
    .delay Config.delayUs, .line b .sda .hi]

/-- The events of Unstick whose stretch waits appended `ws` (R149). -/
def unstickEvents (b : BusId) (ws : List (List Event)) : List Event :=
  prepareEvents b ++ ws.flatMap (· ++ pulseEvents b) ++ stopEvents b

section
variable (b : BusId) (s : State)

@[simp] theorem unstickPrepare_trace : (unstickPrepare b s).trace = s.trace ++ prepareEvents b := by
  simp [unstickPrepare, prepareEvents]

@[simp] theorem unstickPrepare_env : (unstickPrepare b s).env = s.env := by simp [unstickPrepare]

@[simp] theorem pulse_trace : (pulse b s).trace = s.trace ++ pulseEvents b := by simp [pulse, pulseEvents]

@[simp] theorem pulse_env : (pulse b s).env = s.env := by simp [pulse]

@[simp] theorem manualStop_trace : (manualStop b s).trace = s.trace ++ stopEvents b := by
  simp [manualStop, stopEvents]

@[simp] theorem manualStop_env : (manualStop b s).env = s.env := by simp [manualStop]

end

theorem unstickWith_trace {k : Nat} {b : BusId} {s : State} {ws : List (List Event)}
    (h : (pulses b k 9 (unstickPrepare b s)).trace =
      (unstickPrepare b s).trace ++ ws.flatMap (· ++ pulseEvents b)) :
    (unstickWith k b s).trace = s.trace ++ unstickEvents b ws := by
  rw [unstickWith, manualStop_trace, Config.unstickPulses, h]
  simp [unstickEvents]

theorem unstickWith_env (k : Nat) (b : BusId) (s : State) :
    (unstickWith k b s).env = (pulses b k 9 (unstickPrepare b s)).env := by
  rw [unstickWith, manualStop_env, Config.unstickPulses]

theorem stretchWait_trace (b : BusId) (k : Nat) (s : State) :
    ∃ w, StretchEvents b k w ∧ (stretchWait b k s).trace = s.trace ++ w := by
  induction k generalizing s with
  | zero => exact ⟨[], .forced, (List.append_nil _).symm⟩
  | succ k ih =>
    rw [stretchWait]
    cases hl : sclAnswer s with
    | hi => exact ⟨_, .high, by simp [hl]⟩
    | lo =>
      obtain ⟨w, hw, htrace⟩ := ih (delay Config.pollUs (afterReadScl b s))
      exact ⟨_, .low hw, by simp [htrace, hl]⟩

theorem pulses_trace (b : BusId) (k n : Nat) (s : State) :
    ∃ ws : List (List Event), ws.length = n ∧ (∀ w ∈ ws, StretchEvents b k w)
      ∧ (pulses b k n s).trace = s.trace ++ ws.flatMap (· ++ pulseEvents b) := by
  induction n generalizing s with
  | zero => exact ⟨[], rfl, by simp, by simp [pulses]⟩
  | succ n ih =>
    obtain ⟨w, hw, htrace⟩ := stretchWait_trace b k s
    obtain ⟨ws, hlen, hws, htraces⟩ := ih (pulse b (stretchWait b k s))
    exact ⟨w :: ws, by simp [hlen], by simpa using ⟨hw, hws⟩, by simp [pulses, htraces, htrace]⟩

/-- Unstick's events are nine stretch waits in a fixed frame. -/
theorem exists_unstickEvents (k : Nat) (b : BusId) (s : State) :
    ∃ ws : List (List Event), ws.length = 9 ∧ (∀ w ∈ ws, StretchEvents b k w)
      ∧ (unstickWith k b s).trace = s.trace ++ unstickEvents b ws := by
  obtain ⟨ws, hlen, hws, htrace⟩ := pulses_trace b k 9 (unstickPrepare b s)
  exact ⟨ws, hlen, hws, unstickWith_trace htrace⟩

/-! ### What the lines are driven to -/

theorem StretchEvents.filterMap_drivenBy {b : BusId} {k : Nat} {w : List Event} (h : StretchEvents b k w) :
    w.filterMap drivenBy = [] := by
  induction h with
  | forced => rfl
  | high => rfl
  | low _ ih => rw [List.filterMap_append, ih]; rfl

/-- The lines Unstick drives, with `n` pulses. -/
theorem filterMap_drivenBy_pulses {b : BusId} {k : Nat} {ws : List (List Event)}
    (h : ∀ w ∈ ws, StretchEvents b k w) :
    (ws.flatMap (· ++ pulseEvents b)).filterMap drivenBy =
      (List.replicate ws.length [(Line.scl, Level.lo), (.scl, .hi)]).flatten := by
  induction ws with
  | nil => rfl
  | cons w ws ih =>
    rw [List.flatMap_cons, List.filterMap_append, List.filterMap_append,
      (h w List.mem_cons_self).filterMap_drivenBy, ih fun w hw => h w (List.mem_cons_of_mem _ hw)]
    rfl

/-- Settles O38: stretch waits drive nothing. -/
theorem unstickDrivesAFixedSequence : Obligations.UnstickDrivesAFixedSequence := by
  intro k b s
  obtain ⟨ws, hlen, hws, htrace⟩ := exists_unstickEvents k b s
  refine ⟨_, htrace, ?_⟩
  rw [unstickEvents, List.filterMap_append, List.filterMap_append, filterMap_drivenBy_pulses hws, hlen]
  rfl

/-! ### SCL high, and SCL low throughout -/

theorem sclAnswer_cons {s : State} {l : Level} {rest : List Level} (h : s.env.scl = l :: rest) : sclAnswer s = l := by
  simp [sclAnswer, h]

theorem afterScl_cons {e : Env} {l : Level} {rest : List Level} (h : e.scl = l :: rest) :
    e.afterScl.scl = rest := by
  simp [Env.afterScl, h]

theorem stretchWait_of_hi {b : BusId} {k : Nat} {s : State} {rest : List Level} (h : s.env.scl = .hi :: rest) :
    (stretchWait b (k + 1) s).trace = s.trace ++ [.readSCL b .hi] ∧ (stretchWait b (k + 1) s).env.scl = rest := by
  rw [stretchWait, if_pos (sclAnswer_cons h), afterReadScl_trace, afterReadScl_env, sclAnswer_cons h]
  exact ⟨rfl, afterScl_cons h⟩

theorem stretchWait_of_lo {b : BusId} {k : Nat} {s : State} {rest : List Level}
    (h : s.env.scl = List.replicate k .lo ++ rest) :
    (stretchWait b k s).trace = s.trace ++ (List.replicate k [.readSCL b .lo, .delay Config.pollUs]).flatten
      ∧ (stretchWait b k s).env.scl = rest := by
  induction k generalizing s with
  | zero => exact ⟨by simp [stretchWait], h⟩
  | succ k ih =>
    have hlo : sclAnswer s = .lo := sclAnswer_cons h
    have hnext : (delay Config.pollUs (afterReadScl b s)).env.scl = List.replicate k .lo ++ rest := afterScl_cons h
    obtain ⟨htrace, hrest⟩ := ih hnext
    rw [stretchWait, if_neg (by simp [hlo])]
    exact ⟨by simp [htrace, hlo, List.replicate_succ], hrest⟩

/-- Pulses whose stretch waits each append `w` and take the levels `ls`. -/
theorem pulses_of_stretchWait {b : BusId} {k : Nat} {ls : List Level} {w : List Event}
    (hwait : ∀ (s : State) (rest : List Level), s.env.scl = ls ++ rest →
      (stretchWait b k s).trace = s.trace ++ w ∧ (stretchWait b k s).env.scl = rest)
    (n : Nat) (s : State) (rest : List Level) (h : s.env.scl = (List.replicate n ls).flatten ++ rest) :
    (pulses b k n s).trace = s.trace ++ (List.replicate n w).flatMap (· ++ pulseEvents b)
      ∧ (pulses b k n s).env.scl = rest := by
  induction n generalizing s with
  | zero => exact ⟨by simp [pulses], h⟩
  | succ n ih =>
    rw [List.replicate_succ, List.flatten_cons, List.append_assoc] at h
    obtain ⟨htrace, hscl⟩ := hwait s _ h
    obtain ⟨htraces, hrest⟩ := ih (pulse b (stretchWait b k s)) hscl
    exact ⟨by simp [pulses, htraces, htrace, List.replicate_succ], hrest⟩

/-- Settles O39: every stretch wait reads the level high once. -/
theorem unstickTraceWithSclHigh : Obligations.UnstickTraceWithSclHigh := by
  intro k b s rest h
  obtain ⟨htrace, hrest⟩ := pulses_of_stretchWait (b := b) (k := k + 1) (ls := [.hi]) (w := [.readSCL b .hi])
    (fun s rest h => stretchWait_of_hi h) 9 (unstickPrepare b s) rest
    (by rw [unstickPrepare_env, h]; rfl)
  refine ⟨?_, by rw [unstickWith_env, hrest]⟩
  rw [unstickWith_trace htrace]
  simp [unstickEvents, prepareEvents, stopEvents, pulseEvents]

/-- Settles O40: every stretch wait reads the level low and delays as often as its budget allows. -/
theorem unstickTraceWithSclLow : Obligations.UnstickTraceWithSclLow := by
  intro k b s rest h
  obtain ⟨htrace, -⟩ := pulses_of_stretchWait (b := b) (k := k) (ls := List.replicate k .lo)
    (w := (List.replicate k [.readSCL b .lo, .delay Config.pollUs]).flatten)
    (fun s rest h => stretchWait_of_lo h) 9 (unstickPrepare b s) rest
    (by rw [List.flatten_replicate_replicate]; exact h)
  rw [unstickWith_trace htrace]
  simp [unstickEvents, prepareEvents, stopEvents, pulseEvents]

/-! ### Bounds -/

/-- A stretch wait reads once at least, if it may at all, and reads and delays at most as often as its budget allows. -/
theorem StretchEvents.bounds {b : BusId} {k : Nat} {w : List Event} (h : StretchEvents b k w) :
    min k 1 ≤ w.length ∧ w.length ≤ 2 * k ∧ (w.map delayOf).sum ≤ k * Config.pollUs := by
  induction h with
  | forced => simp
  | high => simp [delayOf]; omega
  | low _ ih =>
    obtain ⟨-, hlen, hsum⟩ := ih
    simp [delayOf, Nat.add_mul]; omega

theorem pulses_bounds {b : BusId} {k : Nat} {ws : List (List Event)} (h : ∀ w ∈ ws, StretchEvents b k w) :
    ws.length * (4 + min k 1) ≤ (ws.flatMap (· ++ pulseEvents b)).length
      ∧ (ws.flatMap (· ++ pulseEvents b)).length ≤ ws.length * (4 + 2 * k)
      ∧ ((ws.flatMap (· ++ pulseEvents b)).map delayOf).sum
        ≤ ws.length * (k * Config.pollUs + 2 * Config.delayUs) := by
  induction ws with
  | nil => simp
  | cons w ws ih =>
    obtain ⟨hlow, hhigh, hsum⟩ := (h w List.mem_cons_self).bounds
    obtain ⟨hlows, hhighs, hsums⟩ := ih fun w hw => h w (List.mem_cons_of_mem _ hw)
    simp only [List.flatMap_cons, List.length_append, List.length_cons, List.map_append, List.sum_append, Nat.add_mul,
      Nat.one_mul]
    simp only [pulseEvents, delayOf, List.length_cons, List.length_nil, List.map_cons, List.map_nil, List.sum_cons,
      List.sum_nil] at *
    omega

/-- Settles O41: nine stretch waits within their bounds, and a fixed rest. -/
theorem unstickIsBounded : Obligations.UnstickIsBounded := by
  intro k b s
  obtain ⟨ws, hlen, hws, htrace⟩ := exists_unstickEvents k b s
  obtain ⟨hlow, hhigh, hsum⟩ := pulses_bounds hws
  rw [hlen] at hlow hhigh hsum
  refine ⟨_, htrace, ?_, ?_, ?_⟩
  · simp only [unstickEvents, prepareEvents, stopEvents, List.length_append, List.length_cons, List.length_nil]
    split <;> omega
  · simp only [unstickEvents, prepareEvents, stopEvents, List.length_append, List.length_cons, List.length_nil]
    omega
  · simp only [unstickEvents, prepareEvents, stopEvents, List.map_append, List.sum_append, List.map_cons, List.map_nil,
      List.sum_cons, List.sum_nil, delayOf]
    omega

end Sys2Proof.Machine
end

section
/-! PROOFS. Runs of a call step by step: the countdown of the timed states, and the paths of 95_test_vectors.md. -/

namespace Sys2Proof.Machine

/-! ### Runs of effects -/

/-- `s` is in a call on bus `b`, which is initialized and holds `t`, with the environment `e`. -/
structure InCall (s : State) (b : BusId) (t : TransactionState) (e : Env) : Prop where
  inCall : s.inCall = true
  cur : s.cur = b
  initialized : (s.bus.get b).initialized = true
  ts : s.ts.get b = t
  env : s.env = e

/-- From `t` and `e` on bus `b` a call takes `n` steps, appends `evs` and is under way at `x`, with `env` left. -/
def Runs (b : BusId) (n : Nat) (t : TransactionState) (e : Env) (evs : List Event) (x : TransactionState) (env : Env) :
    Prop :=
  ∀ s, InCall s b t e → ∀ k, driveLoop (n + k) s = driveLoop k (advance s evs env x)

section
variable {s : State} {b : BusId} {t x y : TransactionState} {e env env' : Env} {evs evs' : List Event} {p : PState}
  {n m : Nat} {S : BitVec 6} {rest : List (BitVec 6)}

theorem afterStatus_cons (h : e.status = S :: rest) : e.afterStatus = { e with status := rest } := by
  simp [Env.afterStatus, h]

theorem afterRecv_cons {v : Byte} {more : List Byte} (h : e.recv = v :: more) :
    e.afterRecv = { e with recv := more } := by
  simp [Env.afterRecv, h]

theorem InCall.advance (h : InCall s b t e) (evs : List Event) (env : Env) (x : TransactionState) :
    InCall (advance s evs env x) b x env where
  inCall := h.inCall
  cur := h.cur
  initialized := h.initialized
  ts := h.cur ▸ PerBus.get_set_same _ _ _
  env := rfl

theorem InCall.advance_self (h : InCall s b t e) : Machine.advance s [] e t = s := by
  rw [← h.env, ← h.ts, ← h.cur, Machine.advance_self]

theorem InCall.effect (h : InCall s b t e)
    (he : RuleEffect b t e (statusAnswer s) (recvAnswer (afterPoll s.cur s)) p t.dir evs env x) :
    s.Effect p t.dir evs env x := by
  obtain ⟨-, rfl, -, rfl, rfl⟩ := h
  exact he

theorem InCall.step_eq (h : InCall s b t e) (hp : t.state = p.code) :
    step s = settle (exec (stepOf p t.dir) s) := by
  have hts : s.ts.get s.cur = t := h.cur ▸ h.ts
  rw [step_inCall h.inCall (h.cur ▸ h.initialized) (hts ▸ hp), hts]

namespace Runs

theorem refl : Runs b 0 t e [] t e := fun s h k => by rw [h.advance_self, Nat.zero_add]

theorem trans (h : Runs b n t e evs x env) (h' : Runs b m x env evs' y env') :
    Runs b (n + m) t e (evs ++ evs') y env' := fun s hs k => by
  rw [Nat.add_assoc, h s hs, h' _ (hs.advance evs env x), advance_advance]

/-- A rule with an effect that does not end the call. -/
theorem of_effect (hp : t.state = p.code) (hx : x.state ≠ PState.idle.code)
    (he : ∀ s, InCall s b t e → s.Effect p t.dir evs env x) : Runs b 1 t e evs x env := fun s hs k => by
  have hstep : step s = .next (loopTest (advance s evs env x)) := by
    rw [hs.step_eq hp, exec_of_effect (hs.cur ▸ hs.initialized) (he s hs)]
    rfl
  rw [loopTest_of_busy (s := advance s evs env x) (by simpa using hx)] at hstep
  rw [Nat.add_comm, driveLoop_succ hs.inCall hstep]

/-- A rule that draws nothing. -/
theorem draw (hp : t.state = p.code) (hx : x.state ≠ PState.idle.code)
    (he : ∀ S v, RuleEffect b t e S v p t.dir evs e x) : Runs b 1 t e evs x e :=
  of_effect hp hx fun _ hs => hs.effect (he _ _)

/-- A rule that draws the next sample. -/
theorem sample (hst : e.status = S :: rest) (hp : t.state = p.code) (hx : x.state ≠ PState.idle.code)
    (he : ∀ v, RuleEffect b t e S v p t.dir evs e.afterStatus x) :
    Runs b 1 t e evs x { e with status := rest } := by
  rw [← afterStatus_cons hst]
  refine of_effect hp hx fun s hs => hs.effect ?_
  rw [statusAnswer_cons s S rest (hs.env ▸ hst)]
  exact he _

/-- A rule that draws the next sample and the next byte. -/
theorem receive {v : Byte} {more : List Byte} (hst : e.status = S :: rest) (hrecv : e.recv = v :: more)
    (hp : t.state = p.code) (hx : x.state ≠ PState.idle.code)
    (he : RuleEffect b t e S v p t.dir evs e.afterStatus.afterRecv x) :
    Runs b 1 t e evs x { e with status := rest, recv := more } := by
  have hleft : e.afterStatus.afterRecv = { e with status := rest, recv := more } := by
    rw [afterRecv_cons (by rw [afterStatus_recv, hrecv]), afterStatus_cons hst]
  rw [← hleft]
  refine of_effect hp hx fun s hs => hs.effect ?_
  rw [statusAnswer_cons s S rest (hs.env ▸ hst),
    recvAnswer_cons (afterPoll s.cur s) v more (by rw [afterPoll_env, afterStatus_recv, hs.env, hrecv])]
  exact he

/-- A run as many steps long as the loop takes leaves the call under way. -/
theorem driveLoop_eq (h : Runs b n t e evs x env) (hs : InCall s b t e) :
    driveLoop n s = .next (Machine.advance s evs env x) := h s hs 0

/-- A run to Stopping, and the step that returns. -/
theorem driveLoop_stopping (h : Runs b n t e evs x env) (hs : InCall s b t e) (hx : x.state = PState.stopping.code) :
    driveLoop (n + 1) s = .next (finishCall b (Machine.advance s (evs ++ [.cmd b (.clear 5)]) env
      { x with state := PState.idle.code })) := by
  have hu := hs.advance evs env x
  have hstep : step (Machine.advance s evs env x) = .next (finishCall b (Machine.advance s (evs ++ [.cmd b (.clear 5)])
      env { x with state := PState.idle.code })) := by
    rw [hu.step_eq hx, exec_of_effect (hu.cur ▸ hu.initialized) (hu.effect (.stopping x.dir)), advance_advance, settle,
      loopTest_of_idle (s := Machine.advance s _ _ _) hs.inCall (by simp), advance_cur, hs.cur]
  rw [h s hs, driveLoop_succ hu.inCall hstep]
  rfl

/-- A run to BusError, and the step that recovers and returns. -/
theorem driveLoop_busError (h : Runs b n t e evs x env) (hs : InCall s b t e) (hx : x.state = PState.busError.code) :
    ∃ evs' env', RecoveryOf (Machine.advance s evs env x) evs' env'
      ∧ driveLoop (n + 1) s = .next (finishCall b (errorRecovered (Machine.advance s evs env x) evs' env')) := by
  have hu := hs.advance evs env x
  obtain ⟨evs', env', hr, hexec⟩ := exec_busError x.dir (hu.cur ▸ hu.initialized)
  have hstep : step (Machine.advance s evs env x) =
      .next (finishCall b (errorRecovered (Machine.advance s evs env x) evs' env')) := by
    rw [hu.step_eq hx, stepOf, hexec, settle,
      loopTest_of_idle (s := errorRecovered (Machine.advance s evs env x) evs' env') hs.inCall (by simp [reinitTs]),
      errorRecovered_cur, hu.cur]
  refine ⟨evs', env', hr, ?_⟩
  rw [h s hs, driveLoop_succ hu.inCall hstep]
  rfl

end Runs

end

/-! ### The countdown of a timed state (R103) -/

/-- `t` after `k` polls that failed, at most as many as its countdown. -/
def waited (t : TransactionState) (k : Nat) : TransactionState :=
  { t with timeout := t.timeout - k, state := if t.timeout ≤ k then PState.busError.code else t.state }

theorem waited_of_lt {t : TransactionState} {k : Nat} (h : k < t.timeout) :
    waited t k = { t with timeout := t.timeout - k } := by
  simp [waited, Nat.not_le.mpr h]

theorem waited_timeout (t : TransactionState) :
    waited t t.timeout = { t with timeout := 0, state := PState.busError.code } := by
  simp [waited]

/-- One more poll after a first that was not the last. -/
theorem waited_failedPoll {t : TransactionState} (h : 1 < t.timeout) (k : Nat) :
    waited (failedPoll t) k = waited t (k + 1) := by
  rw [failedPoll_of_lt h]
  have hle : t.timeout - 1 ≤ k ↔ t.timeout ≤ k + 1 := by omega
  simp only [waited, hle, Nat.sub_sub, Nat.add_comm 1 k]

theorem waited_state_ne_idle {t : TransactionState} {p : PState} (ht : t.state = p.code) (hp : p ≠ .idle) (k : Nat) :
    (waited t k).state ≠ PState.idle.code := by
  unfold waited
  split
  · simp
  · simpa [ht] using hp

/-- Failing polls, as many as the countdown at most. -/
theorem Runs.failedPolls {b : BusId} {t : TransactionState} {e : Env} {p : PState} {samples rest : List (BitVec 6)}
    (hst : e.status = samples ++ rest) (ht : t.state = p.code)
    (hS : ∀ S ∈ samples, stillWaiting p t.dir S = true) (h1 : 1 ≤ t.timeout) (hlen : samples.length ≤ t.timeout) :
    Runs b samples.length t e (samples.map (.poll b p.code ·)) (waited t samples.length)
      { e with status := rest } := by
  induction samples generalizing t e with
  | nil =>
    have hrest : e.status = rest := hst
    rw [List.length_nil, waited_of_lt h1, Nat.sub_zero, ← hrest]
    exact .refl
  | cons S samples ih =>
    have hS1 := hS S List.mem_cons_self
    have hp : p ≠ .idle := by rintro rfl; cases hS1
    have hfirst : Runs b 1 t e [.poll b p.code S] (failedPoll t) { e with status := samples ++ rest } :=
      ht ▸ .sample hst ht (waited_state_ne_idle ht hp 1) fun v => .failed t.dir hS1
    cases hs : samples with
    | nil => rw [hs] at hfirst; exact hfirst
    | cons S' samples' =>
      rw [← hs]
      have hmore : 1 < t.timeout := by
        rw [hs, List.length_cons, List.length_cons] at hlen
        omega
      have hleft := failedPoll_of_lt hmore
      have hnext := ih (t := failedPoll t) (e := { e with status := samples ++ rest }) rfl (by rw [hleft]; exact ht)
        (by rw [hleft]; exact fun S h => hS S (List.mem_cons_of_mem _ h))
        (by rw [hleft]; exact Nat.le_sub_one_of_lt hmore) (by rw [hleft]; exact Nat.le_sub_one_of_lt hlen)
      rw [waited_failedPoll hmore] at hnext
      rw [List.length_cons, Nat.add_comm]
      rw [Nat.add_comm samples.length 1] at hnext
      exact hfirst.trans hnext

theorem noExit_eq_stillWaiting {t : TransactionState} {p : PState} (ht : t.state = p.code)
    (hp : timedCode p.code = true) (S : BitVec 6) : noExit t S = stillWaiting p t.dir S := by
  cases p with
  | startingWait => simp [noExit, ht, stillWaiting]
  | addrWait => simp [noExit, ht, stillWaiting]
  | registerWait => simp [noExit, ht, stillWaiting]
  | transfer => cases hd : t.dir <;> simp [noExit, ht, hd, stillWaiting]
  | _ => cases hp

theorem StandingInv.inCallAt {s : State} (h : StandingInv s) (hcall : s.inCall = true) :
    InCall s s.cur (s.ts.get s.cur) s.env := ⟨hcall, rfl, h.initialized hcall, rfl, rfl⟩

/-- Settles O53: failing polls count down one by one, and the last of the countdown enters BusError. -/
theorem timeoutAfterExactlyTheCountdown : Obligations.TimeoutAfterExactlyTheCountdown := by
  intro s k samples rest h hcall htimed hlen hst hS
  obtain ⟨p, hp⟩ := h.exists_state s.cur
  have hrun : samples.length ≤ (s.ts.get s.cur).timeout → driveLoop k s = .next (advance s _ _ _) := fun hle =>
    hlen ▸ (Runs.failedPolls hst hp (fun S hmem => noExit_eq_stillWaiting hp (hp ▸ htimed) S ▸ hS S hmem)
      ((h.callOk hcall).counting htimed) hle).driveLoop_eq (h.inCallAt hcall)
  refine ⟨fun hk => ⟨_, hrun (by omega), ?_⟩, fun hk => ⟨_, hrun (by omega), ?_, rfl⟩⟩
  · rw [advance_ts, PerBus.get_set_same, waited_of_lt hk]
  · rw [advance_ts, PerBus.get_set_same, hk, waited_timeout]

end Sys2Proof.Machine
end

section
/-! PROOFS. The paths of a call (95_test_vectors.md V1 to V4) as runs of effects. -/

namespace Sys2Proof.Machine

/-! ### Bytes received in order -/

/-- The array with the bytes `vs` put at the indices `i, i+1, …` (20_memory.md R51, R54). -/
def memPutAll (m : Memory) (i : Nat) : List Byte → Memory
  | [] => m
  | v :: vs => memPutAll (memPut m i v) (i + 1) vs

theorem memPutAll_length (m : Memory) (i : Nat) (vs : List Byte) : (memPutAll m i vs).length = m.length := by
  induction vs generalizing m i with
  | nil => rfl
  | cons v vs ih => rw [memPutAll, ih, memPut_length]

theorem memPutAll_wf (m : Memory) (i : Nat) (vs : List Byte) : (memPutAll m i vs).wf = m.wf := by
  induction vs generalizing m i with
  | nil => rfl
  | cons v vs ih => rw [memPutAll, ih, memPut_wf]

theorem memRead_memPutAll_outside (m : Memory) {i j : Nat} (vs : List Byte) (h : j < i ∨ i + vs.length ≤ j) :
    memRead (memPutAll m i vs) j = memRead m j := by
  induction vs generalizing m i with
  | nil => rfl
  | cons v vs ih =>
    rw [List.length_cons] at h
    rw [memPutAll, ih _ (by omega), memRead_memPut_other _ _ (by omega)]

theorem memRead_memPutAll_inside {m : Memory} {i k : Nat} {vs : List Byte} {v : Byte} (hm : m.wf = true)
    (hlen : i + vs.length ≤ m.length) (h : vs[k]? = some v) : memRead (memPutAll m i vs) (i + k) = some v := by
  induction vs generalizing m i k with
  | nil => simp at h
  | cons w vs ih =>
    rw [List.length_cons] at hlen
    rw [memPutAll]
    cases k with
    | zero =>
      obtain rfl : w = v := by simpa using h
      rw [memRead_memPutAll_outside _ vs (by omega)]
      exact memRead_memPut_same m i w ((memRead_isSome_iff m i hm).mpr (by omega))
    | succ k =>
      have hnext := ih (m := memPut m i w) (i := i + 1) (k := k) ((memPut_wf m i w).trans hm)
        (by rw [memPut_length]; omega) (by simpa using h)
      rwa [Nat.add_assoc, Nat.add_comm 1 k] at hnext

/-- The events of one byte received. -/
def receivedEvents (b : BusId) (v : Byte) : List Event := [.poll b PState.transfer.code 0x04, .recv b v]

/-- A Transfer of a read with its last bytes lined up: each is put at the cursor, and after the last the call stands at
Stopping with the outcome set. -/
theorem Runs.received {b : BusId} {t : TransactionState} {e : Env} {m : Memory} {vs more : List Byte}
    {rest : List (BitVec 6)} (hne : vs ≠ []) (ht : t.state = PState.transfer.code) (hd : t.dir = .read)
    (hst : e.status = List.replicate vs.length 0x04#6 ++ rest) (hrecv : e.recv = vs ++ more) (hm : t.buf = some m)
    (hwf : m.wf = true) (hrem : t.remaining.toNat = vs.length) (hroom : t.cursor.toNat + vs.length ≤ m.length)
    (hcount : t.cursor.toNat + t.remaining.toNat ≤ Config.lenMax) :
    ∃ x, Runs b vs.length t e (vs.flatMap (receivedEvents b)) x { e with status := rest, recv := more }
      ∧ x.state = PState.stopping.code ∧ x.outcome = true ∧ x.buf = some (memPutAll m t.cursor.toNat vs) := by
  induction vs generalizing t e m with
  | nil => exact absurd rfl hne
  | cons v vs ih =>
    rw [List.length_cons] at hst hrem hroom
    have hbyte := (memRead_isSome_iff m t.cursor.toNat hwf).mpr (by omega)
    have hput := bufWrite_of_isSome v hm hbyte
    have hfirst : ∀ x, movedByte { t with buf := some (memPut m t.cursor.toNat v) } = x →
        x.state ≠ PState.idle.code → Runs b 1 t e (receivedEvents b v) x
          { e with status := List.replicate vs.length 0x04#6 ++ rest, recv := vs ++ more } := by
      rintro x rfl hx
      refine .receive hst hrecv ht hx ?_
      have heffect := RuleEffect.received (b := b) (e := e) (S := 0x04#6) _ rfl hput
      rw [← hd] at heffect
      rw [receivedEvents, ← ht]
      exact heffect
    cases hvs : vs with
    | nil =>
      have hlast : t.remaining - 1 = 0 := by
        rw [hvs, List.length_nil] at hrem
        bv_omega
      subst hvs
      exact ⟨_, hfirst _ (movedByte_of_last hlast) (by simp), rfl, rfl, rfl⟩
    | cons w ws =>
      rw [← hvs]
      obtain ⟨hcur, hless⟩ := movedByte_counts (by omega) hcount
      have hmore : t.remaining - 1 ≠ 0 := by
        intro h0
        rw [h0, hrem, hvs] at hless
        simp at hless
      obtain ⟨x, hrun, hx⟩ := ih
        (t := { t with
          buf := some (memPut m t.cursor.toNat v), cursor := t.cursor + 1, remaining := t.remaining - 1,
          timeout := Config.tLong })
        (e := { e with status := List.replicate vs.length 0x04#6 ++ rest, recv := vs ++ more })
        (m := memPut m t.cursor.toNat v) (by simp [hvs]) ht hd rfl rfl rfl ((memPut_wf _ _ _).trans hwf)
        (by show (t.remaining - 1).toNat = _; omega)
        (by rw [memPut_length]; show (t.cursor + 1).toNat + _ ≤ _; omega)
        (by show (t.cursor + 1).toNat + (t.remaining - 1).toNat ≤ _; omega)
      rw [hcur] at hx
      rw [List.length_cons, Nat.add_comm]
      exact ⟨x, (hfirst _ (movedByte_of_more hmore) (by simp [ht])).trans hrun, hx⟩

/-! ### The phases the paths share -/

section
variable {b : BusId} {t : TransactionState} {e : Env} {rest : List (BitVec 6)}

/-- From Starting on a free bus to the wait for the address to be acknowledged. -/
theorem Runs.address (ht : t.state = PState.starting.code) (hst : e.status = 0x00#6 :: rest) :
    Runs b 3 t e
      [.poll b PState.startingWait.code 0x00, .cmd b (.configure t.addrW 1 .softEnd .startWrite)]
      { t with outcome := false, timeout := Config.tLong, state := PState.addrWait.code }
      { e with status := rest } := by
  have hdir : addrState t.dir = .readAddr ∨ addrState t.dir = .writeAddr := by cases t.dir <;> simp [addrState]
  have hbusy : (addrState t.dir).code ≠ PState.idle.code := by cases t.dir <;> simp [addrState]
  have h1 : Runs b 1 t e [] { t with outcome := false, timeout := Config.tLong, state := PState.startingWait.code } e :=
    .draw ht (by simp) fun S v => .starting t.dir
  have h2 := Runs.sample (b := b)
    (t := { t with outcome := false, timeout := Config.tLong, state := PState.startingWait.code }) hst rfl hbusy
    fun v => .busFree t.dir (by decide)
  exact (h1.trans h2).trans (.draw (p := addrState t.dir) rfl (by simp) fun S v => .address t.dir hdir)

/-- From the wait for the address, both bytes acknowledged at once, to the data phase. -/
theorem Runs.toTransfer (ht : t.state = PState.addrWait.code) (hst : e.status = 0x02#6 :: 0x08#6 :: rest)
    (hrem : t.remaining ≠ 0) :
    Runs b 4 t e
      [.poll b PState.addrWait.code 0x02, .cmd b (.send t.reg), .poll b PState.registerWait.code 0x08,
        .cmd b (.configure t.addrW t.remaining .autoEnd (dataMode t.dir))]
      { t with timeout := Config.tLong, state := PState.transfer.code } { e with status := rest } := by
  have h1 : Runs b 1 t e [.poll b PState.addrWait.code 0x02] { t with state := PState.register.code }
      { e with status := 0x08#6 :: rest } :=
    ht ▸ .sample hst ht (by simp) fun v => .acknowledged t.dir (by decide) (by decide)
  have h2 := Runs.draw (b := b) (t := { t with state := PState.register.code })
    (e := { e with status := 0x08#6 :: rest }) (p := .register) rfl (by simp) fun S v => .register t.dir
  have h3 := Runs.sample (b := b)
    (t := { t with timeout := Config.tLong, state := PState.registerWait.code })
    (e := { e with status := 0x08#6 :: rest }) rfl (p := .registerWait) rfl (by simp)
    fun v => .dataFollows t.dir (by decide) (by decide) hrem
  exact ((h1.trans h2).trans h3).trans (.draw (p := .restarting) rfl (by simp) fun S v => .restarting t.dir)

/-- From Starting, with a slave that answers at once, to the data phase. -/
theorem Runs.toData (ht : t.state = PState.starting.code) (hst : e.status = 0x00#6 :: 0x02#6 :: 0x08#6 :: rest)
    (hrem : t.remaining ≠ 0) :
    Runs b 7 t e
      [.poll b PState.startingWait.code 0x00, .cmd b (.configure t.addrW 1 .softEnd .startWrite),
        .poll b PState.addrWait.code 0x02, .cmd b (.send t.reg), .poll b PState.registerWait.code 0x08,
        .cmd b (.configure t.addrW t.remaining .autoEnd (dataMode t.dir))]
      { t with outcome := false, timeout := Config.tLong, state := PState.transfer.code }
      { e with status := rest } :=
  (Runs.address ht hst).trans (Runs.toTransfer
    (t := { t with outcome := false, timeout := Config.tLong, state := PState.addrWait.code }) rfl rfl hrem)

/-- The last byte of a write sent at once. -/
theorem Runs.sentLast {w : Byte} (ht : t.state = PState.transfer.code) (hd : t.dir = .write)
    (hst : e.status = 0x02#6 :: rest) (hw : bufRead t.buf t.cursor.toNat = some w) (hlast : t.remaining - 1 = 0) :
    Runs b 1 t e [.poll b PState.transfer.code 0x02, .cmd b (.send w)]
      { t with
        cursor := t.cursor + 1, remaining := 0, timeout := Config.tLong, outcome := true,
        state := PState.stopping.code } { e with status := rest } := by
  rw [← movedByte_of_last hlast, ← ht]
  refine .sample hst ht (by rw [movedByte_of_last hlast]; simp) fun v => ?_
  rw [hd]
  exact .sent w rfl hw

end

/-! ### The paths -/

/-- A call that has been seeded, about to take its first step. -/
theorem inCall_seeded {s : State} {b : BusId} (hi : (s.bus.get b).initialized = true) (t : TransactionState) :
    InCall { s with cur := b, inCall := true, ts := s.ts.set b t } b t s.env where
  inCall := rfl
  cur := rfl
  initialized := hi
  ts := PerBus.get_set_same _ _ _
  env := rfl

/-- Settles O56: the address phase, the register phase, one byte sent, and the stop. -/
theorem faultFreeWrite : Obligations.FaultFreeWrite := by
  intro s n b a r d rest h hcall hb hi hst
  have hrun := (Runs.toData (b := b) (e := s.env) (t := seededTs (s.ts.get b) .write a r 1 (memOf [d])) rfl hst
    (by simp [seededTs])).trans (Runs.sentLast (w := d) rfl rfl rfl rfl (by simp [seededTs]))
  refine ⟨_, _, writeSeedsTheCall s n a r d b hb (h.noCall hcall) hi, hrun.driveLoop_stopping (inCall_seeded hi _) rfl,
    rfl, rfl, ?_, ?_, ?_⟩
  · simp [seededTs, memOf, cellsFrom]
  · simp [seededTs]
  · simp [seededTs, dataMode]

/-- Settles O57: the address phase, the register phase, `len` bytes received, and the stop. -/
theorem faultFreeReadDeliversBytesInOrder : Obligations.FaultFreeReadDeliversBytesInOrder := by
  intro s n b a r len buf vs more rest h hcall hb hi hwf hlen hvs h1 hst hrecv
  have hrem : len ≠ 0 := by rintro rfl; simp at h1
  have hne : vs ≠ [] := by rintro rfl; simp at hvs; omega
  obtain ⟨x, hbytes, hx, hout, hbuf⟩ := Runs.received (b := b) (vs := vs) (more := more) (rest := rest) (m := buf)
    (t := { seededTs (s.ts.get b) .read a r len buf with
      outcome := false, timeout := Config.tLong, state := PState.transfer.code })
    (e := { s.env with status := List.replicate vs.length 0x04#6 ++ rest }) hne rfl rfl rfl hrecv rfl hwf hvs.symm
    (by simpa [seededTs, hvs] using hlen) ((Nat.zero_add _).trans_le (byte_le_lenMax len))
  rw [hvs] at hbytes
  have hrun := (Runs.toData (b := b) (e := s.env) (t := seededTs (s.ts.get b) .read a r len buf) rfl hst hrem).trans
    hbytes
  have hloop := hrun.driveLoop_stopping (inCall_seeded hi (seededTs (s.ts.get b) .read a r len buf)) hx
  rw [show 7 + len.toNat + 1 = 8 + len.toNat by omega] at hloop
  refine ⟨_, _, memPutAll buf 0 vs, readSeedsTheCall s n a r len buf b hb (h.noCall hcall) hi hlen,
    hloop, rfl, rfl, ?_, ?_, memPutAll_length _ _ _, fun j v hj => ?_,
    fun j hj => memRead_memPutAll_outside _ _ (by omega), ?_⟩
  · simp [hout, hbuf, seededTs]
  · rw [memPutAll_wf, hwf]
  · simpa using memRead_memPutAll_inside (i := 0) hwf (by omega) hj
  · simp [hout, seededTs, dataMode]
    rfl

/-- Settles O58: the address phase, its NACK, and the stop. -/
theorem addressNackPath : Obligations.AddressNackPath := by
  intro s rest h hcall hs hst
  have hrun := ((Runs.address (b := s.cur) hs hst).trans
    (.sample (p := .addrWait) rfl rfl (by simp) fun v => .nacked _ (.inl rfl) (by decide))).trans
    (.draw (p := .nack) rfl (by simp) fun S v => .nack _)
  refine ⟨_, hrun.driveLoop_stopping (h.inCallAt hcall) rfl, rfl, rfl, rfl, ?_, ?_⟩
  · simp
  · simp

theorem RecoveryOf.trace_eq {s : State} {evs : List Event} {env : Env} (h : RecoveryOf s evs env) :
    (unstick s.cur (countError s)).trace = (countError s).trace ++ evs := by
  rw [h.unstick_eq]

/-- What a recovery drives on the lines (42_bus_recovery.md R149). -/
theorem RecoveryOf.filterMap_drivenBy {s : State} {evs : List Event} {env : Env} (h : RecoveryOf s evs env) :
    evs.filterMap drivenBy =
      [(.scl, .hi), (.sda, .hi)] ++ (List.replicate 9 [(Line.scl, Level.lo), (.scl, .hi)]).flatten
        ++ [(.scl, .lo), (.sda, .lo), (.scl, .hi), (.sda, .hi)] := by
  obtain ⟨evs', htrace, hdriven⟩ := unstickDrivesAFixedSequence Config.stretchPolls s.cur (countError s)
  have heq := h.trace_eq
  rw [unstick, htrace] at heq
  rw [← List.append_cancel_left heq, hdriven]

/-- Settles O59: a whole countdown of busy polls, and the recovery of BusError. -/
theorem busyBusPath : Obligations.BusyBusPath := by
  intro s rest h hcall hs hst
  have hrun := (Runs.draw (b := s.cur) (e := s.env) hs (by simp) fun S v => .starting (s.ts.get s.cur).dir).trans
    (.failedPolls (p := .startingWait) (samples := List.replicate Config.tLong 0x01#6) hst rfl
      (fun S hS => by rw [List.eq_of_mem_replicate hS]; rfl) (Nat.le_add_left 1 _) (by simp))
  obtain ⟨evs, env, hr, hloop⟩ := hrun.driveLoop_busError (h.inCallAt hcall) (by simp [waited])
  rw [show 1 + (List.replicate Config.tLong 0x01#6).length + 1 = Config.tLong + 2 by simp; omega] at hloop
  refine ⟨_, evs, hloop, rfl, rfl, ?_, ?_, ?_, hr.recovery, hr.filterMap_drivenBy,
    ⟨_, hr.trace_eq⟩, ?_⟩
  · simp
  · simp [reinitTs]
  · simp [reinitTs, waited]
  · simp [reinitTs]

end Sys2Proof.Machine
end

section
/-! PROOFS. What a step of a call depends on (43_transaction_api.md R173, 41_protocol_state_machine.md R122). -/

namespace Sys2Proof.Machine

/-! ### Recovery depends on the answers only -/

/-- `r` with what `s` has recorded put after its own trace, and the environment of `s`. -/
def graft (r s : State) : State := { r with trace := r.trace ++ s.trace, env := s.env }

section
variable (r s : State) (b : BusId)

theorem emit_graft (e : Event) : emit e (graft r s) = graft r (emit e s) := by
  simp [graft, emit]

theorem afterReadScl_graft : afterReadScl b (graft r s) = graft r (afterReadScl b s) := by
  simp [graft, afterReadScl, emit, sclAnswer]

theorem pulse_graft : pulse b (graft r s) = graft r (pulse b s) := by
  simp only [pulse, delay, drive, emit_graft]

theorem stretchWait_graft (k : Nat) : stretchWait b k (graft r s) = graft r (stretchWait b k s) := by
  induction k generalizing s with
  | zero => rfl
  | succ k ih =>
    have hscl : sclAnswer (graft r s) = sclAnswer s := rfl
    rw [stretchWait, stretchWait, hscl, afterReadScl_graft]
    split
    · rfl
    · rw [delay, emit_graft, ih]
      rfl

theorem pulses_graft (k n : Nat) : pulses b k n (graft r s) = graft r (pulses b k n s) := by
  induction n generalizing s with
  | zero => rfl
  | succ n ih => rw [pulses, pulses, stretchWait_graft, pulse_graft, ih]

theorem unstick_graft : unstick b (graft r s) = graft r (unstick b s) := by
  simp only [unstick, unstickWith, unstickPrepare, manualStop, drive, delay, configOD, emit_graft, pulses_graft]

end

/-- A state with an empty trace that holds nothing but the environment. -/
def answering (e : Env) : State := { State.reset with env := e }

theorem graft_answering (s : State) : graft s (answering s.env) = s := by
  simp [graft, answering, State.reset]

/-- The events and the environment of a recovery are fixed by the bus and the environment before it. -/
theorem RecoveryOf.eq {s : State} {evs : List Event} {env : Env} (h : RecoveryOf s evs env) :
    evs = (unstick s.cur (answering s.env)).trace ∧ env = (unstick s.cur (answering s.env)).env := by
  have heq := h.unstick_eq
  rw [← graft_answering (countError s), unstick_graft, graft_answering] at heq
  exact ⟨(List.append_cancel_left (congrArg State.trace heq)).symm, (congrArg State.env heq).symm⟩

/-! ### Two states in a call -/

/-- `s` and `s'` are in a call on the same bus and agree on it, on `OVERCLOCK` and on the environment. -/
structure SameCall (s s' : State) : Prop where
  inCall : s'.inCall = s.inCall
  cur : s'.cur = s.cur
  ts : s'.ts.get s.cur = s.ts.get s.cur
  bus : s'.bus.get s.cur = s.bus.get s.cur
  overclock : s'.overclock = s.overclock
  env : s'.env = s.env

/-- From `s` to `t` and from `s'` to `t'` the same was appended, but for the counter, the same handed back, and the same
counted. -/
structure SameProgress (s s' t t' : State) : Prop where
  events : ∃ evs evs', t.trace = s.trace ++ evs ∧ t'.trace = s'.trace ++ evs'
    ∧ evs.map withoutCount = evs'.map withoutCount
  returns : ∃ rs, t.returns = s.returns ++ rs ∧ t'.returns = s'.returns ++ rs
  counted : t'.errcnt - s'.errcnt = t.errcnt - s.errcnt

section
variable {s s' t t' : State}

/-- Two states that agree give a rule the same effect. -/
theorem SameCall.effect (h : SameCall s s') {p : PState} {d : Dir} {evs : List Event} {env : Env}
    {x : TransactionState} (he : s.Effect p d evs env x) : s'.Effect p d evs env x := by
  have hS : statusAnswer s' = statusAnswer s := by rw [statusAnswer, statusAnswer, h.env]
  have hv : recvAnswer (afterPoll s'.cur s') = recvAnswer (afterPoll s.cur s) := by
    rw [recvAnswer, recvAnswer, afterPoll_env, afterPoll_env, h.env]
  unfold State.Effect
  rw [hS, hv, h.cur, h.ts, h.env]
  exact he

theorem SameCall.advance (h : SameCall s s') (evs : List Event) (env : Env) (x : TransactionState) :
    SameCall (advance s evs env x) (advance s' evs env x) ∧
      SameProgress s s' (advance s evs env x) (advance s' evs env x) := by
  refine ⟨⟨h.inCall, h.cur, ?_, h.bus, h.overclock, rfl⟩, ⟨evs, evs, rfl, rfl, rfl⟩, ⟨[], by simp⟩, by simp⟩
  simp [h.cur]

/-- Two states that agree recover alike. -/
theorem SameCall.errorRecovered (h : SameCall s s') {evs evs' : List Event} {env env' : Env}
    (hr : RecoveryOf s evs env) (hr' : RecoveryOf s' evs' env') :
    SameCall (errorRecovered s evs env) (errorRecovered s' evs' env') ∧
      SameProgress s s' (errorRecovered s evs env) (errorRecovered s' evs' env') := by
  obtain ⟨rfl, rfl⟩ := hr.eq
  obtain ⟨rfl, rfl⟩ := hr'.eq
  refine ⟨⟨h.inCall, h.cur, ?_, ?_, h.overclock, ?_⟩, ⟨_, _, rfl, rfl, ?_⟩, ⟨[], by simp⟩, by simp⟩
  · simp [h.cur, h.ts]
  · simp [h.cur, h.overclock]
  · simp [h.cur, h.env]
  · simp [h.cur, h.env, h.overclock, withoutCount]

/-- The loop test returns from both calls or from neither, and hands back the same. -/
theorem SameCall.loopTest (h : SameCall t t') (hp : SameProgress s s' t t') :
    SameCall (loopTest t) (loopTest t') ∧ SameProgress s s' (loopTest t) (loopTest t') := by
  by_cases hend : t.inCall = true ∧ (t.ts.get t.cur).state = PState.idle.code
  · obtain ⟨hcall, hidle⟩ := hend
    rw [loopTest_of_idle hcall hidle, loopTest_of_idle (h.inCall.trans hcall) (by rw [h.cur, h.ts, hidle])]
    obtain ⟨⟨evs, evs', htrace, htrace', hevs⟩, ⟨rs, hrs, hrs'⟩, hcount⟩ := hp
    refine ⟨⟨rfl, h.cur, ?_, h.bus, h.overclock, h.env⟩, ⟨evs ++ [.ret t.cur (t.ts.get t.cur).outcome],
      evs' ++ [.ret t.cur (t.ts.get t.cur).outcome], ?_, ?_, ?_⟩,
      ⟨rs ++ [.call t.cur (t.ts.get t.cur).outcome (t.ts.get t.cur).buf], ?_, ?_⟩, hcount⟩
    · simp [h.cur, h.ts]
    · simp [htrace]
    · simp [htrace', h.cur, h.ts]
    · simp [hevs]
    · simp [hrs]
    · simp [hrs', h.cur, h.ts]
  · have hbusy : ∀ u : State, ¬ (u.inCall = true ∧ (u.ts.get u.cur).state = PState.idle.code) →
        Machine.loopTest u = u := fun u hu => by rw [Machine.loopTest, if_neg (by simpa using hu)]
    rw [hbusy t hend, hbusy t' (by rw [h.inCall, h.cur, h.ts]; exact hend)]
    exact ⟨h, hp⟩

end

/-- Settles O60: the rule of the same state has the same effect or recovers alike, and the loop tests agree. -/
theorem stepInCallDependsOnItsBusOnly : Obligations.StepInCallDependsOnItsBusOnly := by
  intro s s' t hcall hcall' hcur hts hbus hover henv ht
  have h : SameCall s s' := ⟨hcall'.trans hcall.symm, hcur, hts, hbus, hover, henv⟩
  obtain ⟨p, v, hi, hp, hv, rfl⟩ := step_inCall_next hcall ht
  have hi' : (s'.bus.get s'.cur).initialized = true := by rw [hcur, hbus, hi]
  have hstep' : step s' = settle (exec (stepOf p (s.ts.get s.cur).dir) s') := by
    rw [step_inCall hcall' hi' (by rw [hcur, hts, hp]), hcur, hts]
  have hsame : ∃ v', exec (stepOf p (s.ts.get s.cur).dir) s' = .next v' ∧ v.cur = s.cur ∧ SameCall v v'
      ∧ SameProgress s s' v v' := by
    rcases exec_stepOf_next hv with ⟨evs, env, x, he, rfl⟩ | ⟨rfl, evs, env, hr, rfl⟩
    · exact ⟨_, exec_of_effect hi' (h.effect he), rfl, h.advance evs env x⟩
    · obtain ⟨evs', env', hr', hexec⟩ := exec_busError (s.ts.get s.cur).dir hi'
      exact ⟨_, hexec, rfl, h.errorRecovered hr hr'⟩
  obtain ⟨v', hv', hvcur, hagree, hprogress⟩ := hsame
  obtain ⟨hagree', ⟨evs, evs', htrace, htrace', hevs⟩, ⟨rs, hrs, hrs'⟩, hcount⟩ := hagree.loopTest hprogress
  have hcurs : (loopTest v).cur = s.cur := by
    rw [← hvcur, loopTest]
    split <;> rfl
  refine ⟨loopTest v', evs, evs', rs, by rw [hstep', hv']; rfl, htrace, htrace', hevs, hrs, hrs', hagree'.inCall,
    hagree'.cur, ?_, ?_, hagree'.overclock, hagree'.env, hcount⟩
  · rw [← hcurs, hagree'.ts]
  · rw [← hcurs, hagree'.bus]

end Sys2Proof.Machine
end
